-- ==== Sys2Proof/Word.lean ====
section
/-! DEFINITION. The widths of the machine's values (00_scope.md R4, R5, R6, R7): every value is unsigned, and bit 0 is the
least significant bit. -/

namespace Sys2Proof

/-- A general register, a timer, a memory byte, an immediate `KK`: 8 bits (REG_WIDTH, R4). -/
abbrev Byte := BitVec 8

/-- An instruction word, `pc`, `I`, `END`, a stack entry: 16 bits (PC_WIDTH, I_WIDTH, R4; R80). -/
abbrev Word := BitVec 16

/-- A 4-bit field of an instruction word: the category, a register index, the count `N` (R81). -/
abbrev Nibble := BitVec 4

/-- The 12-bit address field `NNN` of an instruction word (R81). -/
abbrev Addr12 := BitVec 12

end Sys2Proof
end

