-- ==== Sys2Proof/Config.lean ====
section
/-! DEFINITION. The configuration record `Cfg` of 00_scope.md R4, and the free values of the model: what the host gives
the block at each step and nothing constrains (R133, R261, R270). -/

namespace Sys2Proof

/-- `FONT_DIGIT_MODE` (R4, R232): how LD F takes the digit of Vx. -/
inductive FontDigitMode where
  | lowNibble
  | fullByte
deriving DecidableEq, Repr

/-- `SHIFT_SOURCE` (R4, R168, R170): the register SHR and SHL shift. -/
inductive ShiftSource where
  | vx
  | vy
deriving DecidableEq, Repr

/-- `SUB_FLAG_MODE` (R4, R167, R169): the polarity of VF after SUB and SUBN. -/
inductive SubFlagMode where
  | notBorrow
  | borrow
deriving DecidableEq, Repr

/-- The one value of a parameter that R4 does not leave OPEN and that the rules fix themselves (log entry 2). -/
abbrev Fixed (n : Nat) : Type :=
  { k : Nat // k = n }

/-- The configuration record of R4, Table 1, one field for each row in the table's order. The eight rows that are the shape
of the state are `Fixed` at the value this hardware takes, which is the shape of `Machine.State`
(`Machine.State.shape`, log entry 2). A machine carries its configuration in its state and no step changes it (DESIGN CHOICE,
log entry 1), so a statement about every state holds for every value of every OPEN parameter. -/
structure Cfg where
  /-- `NUM_REGS`: how many general registers there are (R20). -/
  numRegs : Fixed 16
  /-- `REG_WIDTH`: bits of a general register (R20). -/
  regWidth : Fixed 8
  /-- `I_WIDTH`: bits of the address register (R23). -/
  iWidth : Fixed 16
  /-- `PC_WIDTH`: bits of the program counter (R24, decision D6). -/
  pcWidth : Fixed 16
  /-- `STACK_DEPTH`: how many return addresses the stack holds (R27, R28). -/
  stackDepth : Fixed 16
  /-- `MEM_SIZE`: memory has the addresses below it (R31, R63). -/
  memSize : Nat
  /-- `LOAD_ADDR`: where load puts the image and where execution begins (R41, R280). -/
  loadAddr : Nat
  /-- `FB_WIDTH`: columns of the frame buffer (R32, R191). -/
  fbWidth : Fixed 64
  /-- `FB_HEIGHT`: rows of the frame buffer (R32, R191). -/
  fbHeight : Fixed 32
  /-- `NUM_KEYS`: keys of the key pad (R34, R210, R211). -/
  numKeys : Fixed 16
  /-- `TICK_HZ`: the timer tick rate (R262). -/
  tickHz : Nat
  /-- `TIME_UNITS_PER_SECOND`, OPEN: the resolution of `step_now` (R261). -/
  timeUnitsPerSecond : Nat
  /-- `FONT_BASE`: the address of glyph 0 (R40). -/
  fontBase : Nat
  /-- `FONT_GLYPH_SIZE`: bytes of one glyph (R40). -/
  fontGlyphSize : Nat
  /-- `FONT_TABLE`: the font bytes (R40, Table 2). -/
  fontTable : List Byte
  /-- `FONT_DIGIT_MODE`, OPEN (R232). -/
  fontDigitMode : FontDigitMode
  /-- `STRICT_DECODE`, OPEN (R86). -/
  strictDecode : Bool
  /-- `SHIFT_SOURCE`, OPEN (R168, R170). -/
  shiftSource : ShiftSource
  /-- `SUB_FLAG_MODE`, OPEN (R167, R169). -/
  subFlagMode : SubFlagMode
  /-- `ADD_I_SETS_VF`, OPEN (R231). -/
  addISetsVf : Bool
  /-- `ADD_I_OVERFLOW_LIMIT`, OPEN (R231). -/
  addIOverflowLimit : Nat
  /-- `LDST_INCREMENTS_I`, OPEN (R234, R235). -/
  ldstIncrementsI : Bool
deriving DecidableEq, Repr

/-- FREE VALUE (log entry 3): the random byte `step_rand` of the model's n-th step. R133 admits each of the 256 values on
every step, with no relation between steps. -/
opaque Config.stepRand : Nat → Byte

/-- FREE VALUE (log entry 3): how far host time moves before the model's n-th step. R261 asks for non-decreasing
`step_now` values and nothing else. -/
opaque Config.stepElapsed : Nat → Nat

/-- FREE VALUE (log entry 3): the key pad as the host leaves it before the model's n-th step. R270 lets the host write any
`KEY[k]` between steps. -/
opaque Config.hostKeys : Nat → Vector Bool 16

end Sys2Proof
end

