-- ==== Sys2Proof/Machine/Params.lean ====
section
/-! DEFINITION. The default configuration: the default column of 00_scope.md R4, Table 1, and the default font table of
10_state.md R40, Table 2. -/

namespace Sys2Proof.Machine

/-- The default `FONT_TABLE` (R40, Table 2): glyphs 0 to F, five rows each, in address order. -/
def fontTable : List Byte :=
  [0xF0, 0x90, 0x90, 0x90, 0xF0] ++ [0x20, 0x60, 0x20, 0x20, 0x70] ++
  [0xF0, 0x10, 0xF0, 0x80, 0xF0] ++ [0xF0, 0x10, 0xF0, 0x10, 0xF0] ++
  [0x90, 0x90, 0xF0, 0x10, 0x10] ++ [0xF0, 0x80, 0xF0, 0x10, 0xF0] ++
  [0xF0, 0x80, 0xF0, 0x90, 0xF0] ++ [0xF0, 0x10, 0x20, 0x40, 0x40] ++
  [0xF0, 0x90, 0xF0, 0x90, 0xF0] ++ [0xF0, 0x90, 0xF0, 0x10, 0xF0] ++
  [0xF0, 0x90, 0xF0, 0x90, 0x90] ++ [0xE0, 0x90, 0xE0, 0x90, 0xE0] ++
  [0xF0, 0x80, 0x80, 0x80, 0xF0] ++ [0xE0, 0x90, 0x90, 0x90, 0xE0] ++
  [0xF0, 0x80, 0xF0, 0x80, 0xF0] ++ [0xF0, 0x80, 0xF0, 0x80, 0x80]

/-- The default column of R4, Table 1. -/
def defaultCfg : Cfg where
  numRegs := ⟨16, rfl⟩
  regWidth := ⟨8, rfl⟩
  iWidth := ⟨16, rfl⟩
  pcWidth := ⟨16, rfl⟩
  stackDepth := ⟨16, rfl⟩
  memSize := 4096
  loadAddr := 0x200
  fbWidth := ⟨64, rfl⟩
  fbHeight := ⟨32, rfl⟩
  numKeys := ⟨16, rfl⟩
  tickHz := 60
  timeUnitsPerSecond := 1000000000
  fontBase := 0x000
  fontGlyphSize := 5
  fontTable := fontTable
  fontDigitMode := .lowNibble
  strictDecode := false
  shiftSource := .vx
  subFlagMode := .notBorrow
  addISetsVf := true
  addIOverflowLimit := 0xFFFF
  ldstIncrementsI := false

end Sys2Proof.Machine
end

