-- ==== Sys2Proof/Syntax.lean ====
section
/-! DEFINITION. The fields of an instruction word (30_encoding.md R81) and the instruction set (30_encoding.md R88,
Table 2): one constructor for each of the 34 rows of spec/opcode_table.json. An operand's range is its type's: a register
index and the count `n` are 4 bits, `kk` is 8 bits, `nnn` is 12 bits (R83). -/

namespace Sys2Proof

/-- What the decoder extracts from every word, whatever its category (R81, R82). -/
structure Fields where
  /-- Opcode category, bits 15:12. -/
  c : Nibble
  /-- Register index x, bits 11:8. -/
  x : Nibble
  /-- Register index y, bits 7:4. -/
  y : Nibble
  /-- Nibble immediate n, bits 3:0. -/
  n : Nibble
  /-- Byte immediate kk, bits 7:0. -/
  kk : Byte
  /-- Address immediate nnn, bits 11:0. -/
  nnn : Addr12
deriving DecidableEq, Repr

/-- The instructions, in the order of R88, Table 2. Bits that R88 marks `?` are no operand (R89). -/
inductive Instr where
  /-- CLS, R190. -/
  | cls
  /-- RET, R140. -/
  | ret
  /-- JP nnn, R141. -/
  | jp (nnn : Addr12)
  /-- CALL nnn, R142. -/
  | call (nnn : Addr12)
  /-- SE Vx, kk, R143. -/
  | seImm (x : Nibble) (kk : Byte)
  /-- SNE Vx, kk, R144. -/
  | sneImm (x : Nibble) (kk : Byte)
  /-- SE Vx, Vy, R145. -/
  | seReg (x y : Nibble)
  /-- LD Vx, kk, R160. -/
  | ldImm (x : Nibble) (kk : Byte)
  /-- ADD Vx, kk, R161. -/
  | addImm (x : Nibble) (kk : Byte)
  /-- LD Vx, Vy, R162. -/
  | ldReg (x y : Nibble)
  /-- OR Vx, Vy, R163. -/
  | orReg (x y : Nibble)
  /-- AND Vx, Vy, R164. -/
  | andReg (x y : Nibble)
  /-- XOR Vx, Vy, R165. -/
  | xorReg (x y : Nibble)
  /-- ADD Vx, Vy, R166. -/
  | addReg (x y : Nibble)
  /-- SUB Vx, Vy, R167. -/
  | sub (x y : Nibble)
  /-- SHR Vx, Vy, R168. -/
  | shr (x y : Nibble)
  /-- SUBN Vx, Vy, R169. -/
  | subn (x y : Nibble)
  /-- SHL Vx, Vy, R170. -/
  | shl (x y : Nibble)
  /-- SNE Vx, Vy, R146. -/
  | sneReg (x y : Nibble)
  /-- LD I, nnn, R230. -/
  | ldI (nnn : Addr12)
  /-- JP V0, nnn, R147. -/
  | jpV0 (nnn : Addr12)
  /-- RND Vx, kk, R171. -/
  | rnd (x : Nibble) (kk : Byte)
  /-- DRW Vx, Vy, n, R191. -/
  | drw (x y n : Nibble)
  /-- SKP Vx, R210. -/
  | skp (x : Nibble)
  /-- SKNP Vx, R211. -/
  | sknp (x : Nibble)
  /-- LD Vx, DT, R212. -/
  | ldVxDt (x : Nibble)
  /-- LD Vx, K, R213. -/
  | ldVxK (x : Nibble)
  /-- LD DT, Vx, R214. -/
  | ldDtVx (x : Nibble)
  /-- LD ST, Vx, R215. -/
  | ldStVx (x : Nibble)
  /-- ADD I, Vx, R231. -/
  | addI (x : Nibble)
  /-- LD F, Vx, R232. -/
  | ldF (x : Nibble)
  /-- LD B, Vx, R233. -/
  | ldB (x : Nibble)
  /-- LD [I], Vx, R234. -/
  | stRegs (x : Nibble)
  /-- LD Vx, [I], R235. -/
  | ldRegs (x : Nibble)
deriving DecidableEq, Repr

end Sys2Proof
end

