-- ==== Sys2Proof/Decode.lean ====
section
/-! DEFINITION. The instruction decoder (30_encoding.md R81, R82), the dispatch multiplexer (R85 to R87), the encoder
(R84, R88) and the opcode map's match and mask pairs (R88, Table 2). -/

namespace Sys2Proof

/-- Field extraction at the fixed places of R81; total (R82). -/
def Fields.ofWord (w : Word) : Fields where
  c := w.extractLsb' 12 4
  x := w.extractLsb' 8 4
  y := w.extractLsb' 4 4
  n := w.extractLsb' 0 4
  kk := w.extractLsb' 0 8
  nnn := w.extractLsb' 0 12

/-- The dispatch multiplexer of R87, with the extra tests of STRICT_DECODE (R86). `none` is the verdict UNIMPL.
The last arm is never taken: a nibble has no further value. -/
def dispatch (strict : Bool) (f : Fields) : Option Instr :=
  match f.c with
  | 0x0#4 =>
    if strict = true ∧ f.x ≠ 0#4 then none
    else if f.kk = 0xE0#8 then some .cls
    else if f.kk = 0xEE#8 then some .ret
    else none
  | 0x1#4 => some (.jp f.nnn)
  | 0x2#4 => some (.call f.nnn)
  | 0x3#4 => some (.seImm f.x f.kk)
  | 0x4#4 => some (.sneImm f.x f.kk)
  | 0x5#4 => if strict = true ∧ f.n ≠ 0#4 then none else some (.seReg f.x f.y)
  | 0x6#4 => some (.ldImm f.x f.kk)
  | 0x7#4 => some (.addImm f.x f.kk)
  | 0x8#4 =>
    if f.n = 0x0#4 then some (.ldReg f.x f.y)
    else if f.n = 0x1#4 then some (.orReg f.x f.y)
    else if f.n = 0x2#4 then some (.andReg f.x f.y)
    else if f.n = 0x3#4 then some (.xorReg f.x f.y)
    else if f.n = 0x4#4 then some (.addReg f.x f.y)
    else if f.n = 0x5#4 then some (.sub f.x f.y)
    else if f.n = 0x6#4 then some (.shr f.x f.y)
    else if f.n = 0x7#4 then some (.subn f.x f.y)
    else if f.n = 0xE#4 then some (.shl f.x f.y)
    else none
  | 0x9#4 => if f.n = 0x0#4 then some (.sneReg f.x f.y) else none
  | 0xA#4 => some (.ldI f.nnn)
  | 0xB#4 => some (.jpV0 f.nnn)
  | 0xC#4 => some (.rnd f.x f.kk)
  | 0xD#4 => some (.drw f.x f.y f.n)
  | 0xE#4 =>
    if f.kk = 0x9E#8 then some (.skp f.x)
    else if f.kk = 0xA1#8 then some (.sknp f.x)
    else none
  | 0xF#4 =>
    if f.kk = 0x07#8 then some (.ldVxDt f.x)
    else if f.kk = 0x0A#8 then some (.ldVxK f.x)
    else if f.kk = 0x15#8 then some (.ldDtVx f.x)
    else if f.kk = 0x18#8 then some (.ldStVx f.x)
    else if f.kk = 0x1E#8 then some (.addI f.x)
    else if f.kk = 0x29#8 then some (.ldF f.x)
    else if f.kk = 0x33#8 then some (.ldB f.x)
    else if f.kk = 0x55#8 then some (.stRegs f.x)
    else if f.kk = 0x65#8 then some (.ldRegs f.x)
    else none
  | _ => none

/-- Decode and dispatch of one word (R126); `none` is UNIMPL. -/
def decodeWord (strict : Bool) (w : Word) : Option Instr :=
  dispatch strict (Fields.ofWord w)

/-- The big-endian word of two bytes, the first at the lower address (R61). -/
def wordOfBytes (hi lo : Byte) : Word :=
  hi ++ lo

/-- The byte of a word at the lower address (R61). -/
def highByte (w : Word) : Byte :=
  w.extractLsb' 8 8

/-- The byte of a word at the higher address (R61). -/
def lowByte (w : Word) : Byte :=
  w.extractLsb' 0 8

/-- Why bytes are no instruction. -/
inductive DecodeError where
  /-- Fewer than the two bytes of an instruction (R80). -/
  | truncated
  /-- The word matches no dispatch entry: UNIMPL (R85, R90). -/
  | unimplemented (w : Word)
deriving DecidableEq, Repr

/-- The decoder on any bytes: the instruction in the first two and the bytes after it (R80), or a named rejection. -/
def decode (strict : Bool) : List Byte → Except DecodeError (Instr × List Byte)
  | hi :: lo :: rest =>
    match decodeWord strict (wordOfBytes hi lo) with
    | some i => .ok (i, rest)
    | none => .error (.unimplemented (wordOfBytes hi lo))
  | _ => .error .truncated

/-- `w = C × 4096 + X × 256 + Y × 16 + N` (R84). -/
def wordOfNibbles (c x y n : Nibble) : Word :=
  BitVec.ofNat 16 (c.toNat * 4096 + x.toNat * 256 + y.toNat * 16 + n.toNat)

/-- The byte form of R81, Table 1: `KK = Y × 16 + N` (R83). -/
def wordOfByteForm (c x : Nibble) (kk : Byte) : Word :=
  wordOfNibbles c x (kk.extractLsb' 4 4) (kk.extractLsb' 0 4)

/-- The address form of R81, Table 1: `NNN = X × 256 + KK` (R83). -/
def wordOfAddressForm (c : Nibble) (nnn : Addr12) : Word :=
  wordOfNibbles c (nnn.extractLsb' 8 4) (nnn.extractLsb' 4 4) (nnn.extractLsb' 0 4)

/-- The word an assembler emits: the pattern of R88, Table 2, with every `?` bit zero (R93). -/
def encode : Instr → Word
  | .cls => wordOfByteForm 0x0 0x0 0xE0
  | .ret => wordOfByteForm 0x0 0x0 0xEE
  | .jp nnn => wordOfAddressForm 0x1 nnn
  | .call nnn => wordOfAddressForm 0x2 nnn
  | .seImm x kk => wordOfByteForm 0x3 x kk
  | .sneImm x kk => wordOfByteForm 0x4 x kk
  | .seReg x y => wordOfNibbles 0x5 x y 0x0
  | .ldImm x kk => wordOfByteForm 0x6 x kk
  | .addImm x kk => wordOfByteForm 0x7 x kk
  | .ldReg x y => wordOfNibbles 0x8 x y 0x0
  | .orReg x y => wordOfNibbles 0x8 x y 0x1
  | .andReg x y => wordOfNibbles 0x8 x y 0x2
  | .xorReg x y => wordOfNibbles 0x8 x y 0x3
  | .addReg x y => wordOfNibbles 0x8 x y 0x4
  | .sub x y => wordOfNibbles 0x8 x y 0x5
  | .shr x y => wordOfNibbles 0x8 x y 0x6
  | .subn x y => wordOfNibbles 0x8 x y 0x7
  | .shl x y => wordOfNibbles 0x8 x y 0xE
  | .sneReg x y => wordOfNibbles 0x9 x y 0x0
  | .ldI nnn => wordOfAddressForm 0xA nnn
  | .jpV0 nnn => wordOfAddressForm 0xB nnn
  | .rnd x kk => wordOfByteForm 0xC x kk
  | .drw x y n => wordOfNibbles 0xD x y n
  | .skp x => wordOfByteForm 0xE x 0x9E
  | .sknp x => wordOfByteForm 0xE x 0xA1
  | .ldVxDt x => wordOfByteForm 0xF x 0x07
  | .ldVxK x => wordOfByteForm 0xF x 0x0A
  | .ldDtVx x => wordOfByteForm 0xF x 0x15
  | .ldStVx x => wordOfByteForm 0xF x 0x18
  | .addI x => wordOfByteForm 0xF x 0x1E
  | .ldF x => wordOfByteForm 0xF x 0x29
  | .ldB x => wordOfByteForm 0xF x 0x33
  | .stRegs x => wordOfByteForm 0xF x 0x55
  | .ldRegs x => wordOfByteForm 0xF x 0x65

/-- The two bytes of an instruction in memory order (R61). -/
def encodeBytes (i : Instr) : List Byte :=
  [highByte (encode i), lowByte (encode i)]

/-- One row of R88, Table 2: the match value, the mask, and the mask when STRICT_DECODE is true. -/
structure Pattern where
  bits : Word
  mask : Word
  strictMask : Word
deriving DecidableEq, Repr

/-- The mask of a row in a decoding mode. -/
def Pattern.maskIn (p : Pattern) (strict : Bool) : Word :=
  if strict then p.strictMask else p.mask

/-- A word selects a row when its masked bits are the row's match value (R88). -/
abbrev Pattern.selectedBy (p : Pattern) (strict : Bool) (w : Word) : Prop :=
  w &&& p.maskIn strict = p.bits

/-- The row of R88, Table 2, of an instruction. -/
def Instr.pattern : Instr → Pattern
  | .cls => ⟨0x00E0, 0xF0FF, 0xFFFF⟩
  | .ret => ⟨0x00EE, 0xF0FF, 0xFFFF⟩
  | .jp _ => ⟨0x1000, 0xF000, 0xF000⟩
  | .call _ => ⟨0x2000, 0xF000, 0xF000⟩
  | .seImm _ _ => ⟨0x3000, 0xF000, 0xF000⟩
  | .sneImm _ _ => ⟨0x4000, 0xF000, 0xF000⟩
  | .seReg _ _ => ⟨0x5000, 0xF000, 0xF00F⟩
  | .ldImm _ _ => ⟨0x6000, 0xF000, 0xF000⟩
  | .addImm _ _ => ⟨0x7000, 0xF000, 0xF000⟩
  | .ldReg _ _ => ⟨0x8000, 0xF00F, 0xF00F⟩
  | .orReg _ _ => ⟨0x8001, 0xF00F, 0xF00F⟩
  | .andReg _ _ => ⟨0x8002, 0xF00F, 0xF00F⟩
  | .xorReg _ _ => ⟨0x8003, 0xF00F, 0xF00F⟩
  | .addReg _ _ => ⟨0x8004, 0xF00F, 0xF00F⟩
  | .sub _ _ => ⟨0x8005, 0xF00F, 0xF00F⟩
  | .shr _ _ => ⟨0x8006, 0xF00F, 0xF00F⟩
  | .subn _ _ => ⟨0x8007, 0xF00F, 0xF00F⟩
  | .shl _ _ => ⟨0x800E, 0xF00F, 0xF00F⟩
  | .sneReg _ _ => ⟨0x9000, 0xF00F, 0xF00F⟩
  | .ldI _ => ⟨0xA000, 0xF000, 0xF000⟩
  | .jpV0 _ => ⟨0xB000, 0xF000, 0xF000⟩
  | .rnd _ _ => ⟨0xC000, 0xF000, 0xF000⟩
  | .drw _ _ _ => ⟨0xD000, 0xF000, 0xF000⟩
  | .skp _ => ⟨0xE09E, 0xF0FF, 0xF0FF⟩
  | .sknp _ => ⟨0xE0A1, 0xF0FF, 0xF0FF⟩
  | .ldVxDt _ => ⟨0xF007, 0xF0FF, 0xF0FF⟩
  | .ldVxK _ => ⟨0xF00A, 0xF0FF, 0xF0FF⟩
  | .ldDtVx _ => ⟨0xF015, 0xF0FF, 0xF0FF⟩
  | .ldStVx _ => ⟨0xF018, 0xF0FF, 0xF0FF⟩
  | .addI _ => ⟨0xF01E, 0xF0FF, 0xF0FF⟩
  | .ldF _ => ⟨0xF029, 0xF0FF, 0xF0FF⟩
  | .ldB _ => ⟨0xF033, 0xF0FF, 0xF0FF⟩
  | .stRegs _ => ⟨0xF055, 0xF0FF, 0xF0FF⟩
  | .ldRegs _ => ⟨0xF065, 0xF0FF, 0xF0FF⟩

/-- What the decoder reads from the instruction whose bits are `w` (spec/opcode_table.json's numbering: one 16-bit word,
bit 0 its least significant bit), laid out as memory holds it: the high byte first (R61). The decoding mode is the default
configuration's. -/
def decodeTableWord (nbits w : Nat) : Option Instr :=
  match decode Machine.defaultCfg.strictDecode
      [highByte (BitVec.ofNat 16 (w % 2 ^ nbits)), lowByte (BitVec.ofNat 16 (w % 2 ^ nbits))] with
  | .ok (i, _) => some i
  | .error _ => none

end Sys2Proof
end

