-- ==== Sys2Proof/Machine/Flags.lean ====
section
/-! DEFINITION. Every flag computation the spec gives: VF as carry, borrow indicator, shifted-out bit and address overflow
(42_alu.md R159 to R170, 45_address_memory.md R231). The collision flag is computed with the pixels (`Canvas`, R191). -/

namespace Sys2Proof.Machine

/-- `bool(c)` of R8 as a byte: 1 if the condition holds, else 0. -/
def bit (b : Bool) : Byte :=
  if b then 1#8 else 0#8

/-- The carry of ADD Vx, Vy: the exact sum exceeds 255 (R166). -/
def carryOut (a b : Byte) : Bool :=
  decide (255 < a.toNat + b.toNat)

/-- The borrow indicator of `a - b` in the configured polarity (R167, R169). -/
def borrowFlag (mode : SubFlagMode) (a b : Byte) : Bool :=
  match mode with
  | .notBorrow => decide (b.toNat ≤ a.toNat)
  | .borrow => decide (a.toNat < b.toNat)

/-- The bit SHR shifts out (R168). -/
def shiftedOutRight (s : Byte) : Bool :=
  s.getLsbD 0

/-- The bit SHL shifts out (R170). -/
def shiftedOutLeft (s : Byte) : Bool :=
  s.getLsbD 7

/-- The overflow of ADD I, Vx: the exact sum exceeds ADD_I_OVERFLOW_LIMIT (R231). -/
def addIOverflow (limit : Nat) (i : Word) (v : Byte) : Bool :=
  decide (limit < i.toNat + v.toNat)

end Sys2Proof.Machine
end

