-- ==== Sys2Proof/Machine/State.lean ====
section
/-! DEFINITION. The state of the machine (10_state.md, Table 1), its ports (40_execution_cycle.md R121), and the state after
reset (70_reset_and_hazards.md R280). -/

namespace Sys2Proof.Machine

/-- Memory as a list of (address, byte) cells in one canonical form (`Memory.wf`). What an unlisted address reads as is
`initialByte`: its contents after reset. -/
abbrev Memory := List Host.Cell

/-- The frame buffer: 32 rows of 64 pixels, true when the pixel is on (R32). -/
abbrev FrameBuffer := Vector (Vector Bool 64) 32

/-- The fatal errors of 60_exceptions.md R250, Table 1. -/
inductive FatalCode where
  /-- Raised by dispatch for a word that matches no entry (R90). -/
  | unimplementedOpcode
  /-- Raised by CALL with SP = 16 (R142). -/
  | stackOverflow
  /-- Raised by RET with SP = 0 (R140). -/
  | stackUnderflow
  /-- Raised by the fetch, DRW, LD B, LD [I],Vx and LD Vx,[I] for an address at or above MEM_SIZE (R63). -/
  | memoryOutOfRange
  /-- Raised by SKP and SKNP for a key index above 15 (R210, R211). -/
  | keyIndexOutOfRange
  /-- Raised by load only, for an image too large (R280). -/
  | loadError
deriving DecidableEq, Repr

/-- What a fatal error of a step records (R250, R254): the address of the faulting instruction and its word, no word for a
fetch fault. -/
structure FaultRecord where
  code : FatalCode
  pc : Word
  word : Option Word
deriving DecidableEq, Repr

/-- `STATUS` (R37). -/
inductive Status where
  | run
  | halted
  | faulted (r : FaultRecord)
deriving DecidableEq, Repr

/-- `step_status`, the outcome a step returns (R121). -/
inductive StepStatus where
  | cont
  | halted
  | fault (r : FaultRecord)
deriving DecidableEq, Repr

/-- The outputs of a step (R121). The renderer's view of `FB` is the state's own `fb`. -/
structure StepOut where
  status : StepStatus
  renderNotify : Bool
  soundActive : Bool
deriving DecidableEq, Repr

/-- The whole state. The fields down to `key` are 10_state.md Table 1; then the ports of the step; then the model's own
counter of host inputs. -/
structure State where
  /-- The configuration of this machine (R4, log entry 1). No step changes it. -/
  cfg : Cfg
  /-- General registers V0 to VF (R20). -/
  v : Vector Byte 16
  /-- Address register (R23). -/
  i : Word
  /-- Program counter (R24). -/
  pc : Word
  /-- Stack entries in use, 0 to 16 (R27). -/
  sp : Fin 17
  /-- Return-address stack (R27). -/
  stack : Vector Word 16
  /-- Delay timer (R29). -/
  dt : Byte
  /-- Sound timer (R29). -/
  st : Byte
  /-- Host time of the last timer tick, or of load (R35). -/
  lastTick : Nat
  /-- End address of the loaded image (R36). -/
  endAddr : Word
  /-- RUN, HALTED or FAULTED (R37). -/
  status : Status
  /-- Memory (R31). -/
  mem : Memory
  /-- Frame buffer (R32). -/
  fb : FrameBuffer
  /-- Frame-buffer dirty flag (R33). -/
  dirty : Bool
  /-- Key pad, written by the host between steps only (R34, R270). -/
  key : Vector Bool 16
  /-- Input port `step_now`: the host time of the step about to run (R121, R261). -/
  now : Nat
  /-- Input port `step_rand`: the random byte of the step about to run (R121, R133). -/
  rand : Byte
  /-- Output ports: what the last step returned (R121). -/
  out : StepOut
  /-- The model's own: the index of the next free host input (log entry 3). -/
  inputIndex : Nat
deriving DecidableEq, Repr

/-- What would stop the machine outside its own state. There is no such thing: every fatal error of R250 has a described
entry (R254) and is a NEXT state whose `status` is FAULTED (log entry 5), so this type has no constructor. -/
inductive Fault where
deriving DecidableEq, Repr

/-- Why an instruction has no meaning in this model. -/
inductive Refusal where
  /-- Raised by an arm of `exec` for an instruction not modelled yet; no arm does, every instruction has its meaning. Safe:
  the machine stops where the hardware goes on. -/
  | notModelled (mnemonic : String)
deriving DecidableEq, Repr

/-- What a meaning answers. -/
abbrev Result := Host.Outcome State Fault Refusal

/-- The state load leaves (R41, R280): everything zero or false but for the memory, `pc`, `END`, `LAST_TICK`, and the host
inputs of the first step, which are free (log entry 3); host time is not below the load time (R283). -/
def State.afterLoad (cfg : Cfg) (mem : Memory) (len t0 : Nat) : State where
  cfg := cfg
  v := Vector.replicate 16 0
  i := 0
  pc := BitVec.ofNat 16 cfg.loadAddr
  sp := 0
  stack := Vector.replicate 16 0
  dt := 0
  st := 0
  lastTick := t0
  endAddr := BitVec.ofNat 16 (cfg.loadAddr + len)
  status := .run
  mem := mem
  fb := Vector.replicate 32 (Vector.replicate 64 false)
  dirty := false
  key := Vector.replicate 16 false
  now := t0 + Config.stepElapsed 0
  rand := Config.stepRand 0
  out := ⟨.cont, false, false⟩
  inputIndex := 1

/-- The machine right after reset. Load is the only reset (R280, R281) and its image and time are inputs; the model's reset
is the load of the empty image (R284) at host time 0 in the default configuration (DESIGN CHOICE, log entry 4). -/
def State.reset : State :=
  State.afterLoad defaultCfg [] 0 0

end Sys2Proof.Machine
end

