-- ==== Sys2Proof/Machine/Ops.lean ====
section
/-! DEFINITION. The named operations over registers, program counter, stack, memory, frame buffer and timers, and the one
operation that takes a fatal error. There is no return from one: FAULTED is terminal (60_exceptions.md R256). -/

namespace Sys2Proof.Machine

/-! ## Memory -/

/-- What an address nothing has written holds (R40, R66, log entry 7): the font table at FONT_BASE, 0 elsewhere. -/
def initialByte (cfg : Cfg) (a : Nat) : Byte :=
  if cfg.fontBase ≤ a then cfg.fontTable.getD (a - cfg.fontBase) 0#8 else 0#8

/-- The byte at an address. -/
def Memory.read (cfg : Cfg) : Memory → Nat → Byte
  | [], a => initialByte cfg a
  | (k, b) :: m, a => if k = a then b else Memory.read cfg m a

/-- Put a cell into sorted place, or take it out when the byte is what the unlisted address reads as. -/
def Memory.insert (cfg : Cfg) : Memory → Nat → Byte → Memory
  | [], a, b => if b = initialByte cfg a then [] else [(a, b)]
  | (k, x) :: m, a, b =>
    if a < k then (if b = initialByte cfg a then (k, x) :: m else (a, b) :: (k, x) :: m)
    else if a = k then (if b = initialByte cfg a then m else (a, b) :: m)
    else (k, x) :: Memory.insert cfg m a b

/-- Write one byte. No cell exists at or above MEM_SIZE; every meaning checks that first (R63), so the second case is never
taken by one. -/
def Memory.write (cfg : Cfg) (m : Memory) (a : Nat) (b : Byte) : Memory :=
  if a < cfg.memSize then Memory.insert cfg m a b else m

/-- Write bytes at ascending addresses (load, R280). -/
def Memory.writeBytes (cfg : Cfg) (m : Memory) (a : Nat) : List Byte → Memory
  | [] => m
  | b :: bs => Memory.writeBytes cfg (Memory.write cfg m a b) (a + 1) bs

/-- Addresses rise strictly from above `low`. -/
def Memory.risesFrom : Nat → Memory → Bool
  | _, [] => true
  | low, (k, _) :: m => decide (low ≤ k) && Memory.risesFrom (k + 1) m

/-- The canonical form: addresses strictly rising, all below MEM_SIZE, no cell equal to what the unlisted address reads as. -/
def Memory.wf (cfg : Cfg) (m : Memory) : Bool :=
  Memory.risesFrom 0 m && m.all fun cell => decide (cell.1 < cfg.memSize) && decide (cell.2 ≠ initialByte cfg cell.1)

/-- `MemRead(a, 1)` (R9). -/
def State.memRead (s : State) (a : Nat) : Byte :=
  Memory.read s.cfg s.mem a

/-- `MemWrite(a, 1, b)` (R9). -/
def State.memWrite (s : State) (a : Nat) (b : Byte) : State :=
  { s with mem := Memory.write s.cfg s.mem a b }

/-- `Fetch(a)` (R61): the big-endian word at `a`, none if its second byte lies outside memory. -/
def State.fetchAt (s : State) (a : Nat) : Option Word :=
  if s.cfg.memSize ≤ a + 1 then none else some (wordOfBytes (s.memRead a) (s.memRead (a + 1)))

/-- The word at `pc` (R125). -/
def State.fetch (s : State) : Option Word :=
  s.fetchAt s.pc.toNat

/-! ## Registers and program counter -/

/-- `V[x]` (R9). -/
def State.readV (s : State) (x : Nibble) : Byte :=
  s.v[x.toNat]'x.isLt

/-- `V[x] <- b` (R9). No register is hard-wired (R20). -/
def State.writeV (s : State) (x : Nibble) (b : Byte) : State :=
  { s with v := s.v.set x.toNat b x.isLt }

/-- VF written as the flag (R21). -/
def State.setFlag (s : State) (f : Bool) : State :=
  s.writeV 0xF#4 (bit f)

/-- A result to `V[x]` and then a flag to VF, so that with x = 0xF VF ends as the flag (R21, R159). -/
def State.writeWithFlag (s : State) (x : Nibble) (b : Byte) (f : Bool) : State :=
  (s.writeV x b).setFlag f

/-- `I <- a` (R9). -/
def State.setI (s : State) (a : Word) : State :=
  { s with i := a }

/-- `set(target)` (R128). -/
def State.setPc (s : State) (target : Word) : State :=
  { s with pc := target }

/-- `advance()` (R128). -/
def State.advance (s : State) : State :=
  s.setPc (s.pc + 2#16)

/-- `skip_if(c)` (R128). -/
def State.skipIf (s : State) (c : Bool) : State :=
  s.setPc (s.pc + (if c then 4#16 else 2#16))

/-! ## Taking a fatal error -/

/-- Fault entry (R254): STATUS records the error, the address of the instruction and its word (none when the fetch itself
fails), and nothing else changes. Called on the state before the instruction's first write, so the step is rolled back. -/
def State.raise (s : State) (code : FatalCode) : State :=
  { s with status := .faulted ⟨code, s.pc, s.fetch⟩ }

/-- A meaning with one fatal condition: the error if it holds, else the effect. -/
def fatalIf (bad : Prop) [Decidable bad] (code : FatalCode) (s effect : State) : Result :=
  .next (if bad then s.raise code else effect)

/-! ## Stack -/

/-- `Push(a)` (R28), none when the stack is full: SP = STACK_DEPTH. -/
def State.push? (s : State) (a : Word) : Option State :=
  if h : s.sp.val < s.cfg.stackDepth.val then
    have h16 : s.sp.val < 16 := Nat.lt_of_lt_of_eq h s.cfg.stackDepth.property
    some { s with stack := s.stack.set s.sp.val a h16, sp := ⟨s.sp.val + 1, Nat.succ_lt_succ h16⟩ }
  else none

/-- `Pop()` (R28): the top entry and the state after, none when the stack is empty. The entry keeps its value. -/
def State.pop? (s : State) : Option (Word × State) :=
  if h : 0 < s.sp.val then
    some (s.stack[s.sp.val - 1]'(by omega), { s with sp := ⟨s.sp.val - 1, by omega⟩ })
  else none

/-! ## Frame buffer -/

/-- The frame buffer being drawn on, and whether a pixel was turned off yet (R191). -/
structure Canvas where
  fb : FrameBuffer
  collide : Bool
deriving DecidableEq, Repr

/-- `FB[row][col]`. Every use has `row` and `col` inside the grid; reducing them makes the read total. -/
def FrameBuffer.pixel (fb : FrameBuffer) (row col : Nat) : Bool :=
  (fb[row % 32]'(Nat.mod_lt _ (by decide)))[col % 64]'(Nat.mod_lt _ (by decide))

/-- `FB[row][col] <- p`, the indices reduced likewise. -/
def FrameBuffer.setPixel (fb : FrameBuffer) (row col : Nat) (p : Bool) : FrameBuffer :=
  fb.set (row % 32)
    ((fb[row % 32]'(Nat.mod_lt _ (by decide))).set (col % 64) p (Nat.mod_lt _ (by decide)))
    (Nat.mod_lt _ (by decide))

/-- XOR of one set sprite bit onto a pixel (R191). -/
def Canvas.xorPixel (k : Canvas) (row col : Nat) : Canvas where
  fb := FrameBuffer.setPixel k.fb row col (!FrameBuffer.pixel k.fb row col)
  collide := k.collide || FrameBuffer.pixel k.fb row col

/-- The first `n` columns of one sprite byte, column 0 being bit 7 (R191, decision D22). The column is taken modulo
FB_WIDTH and the row modulo FB_HEIGHT. -/
def Canvas.drawColumns (cfg : Cfg) (b : Byte) (cx row : Nat) : Nat → Canvas → Canvas
  | 0, k => k
  | c + 1, k =>
    if b.getLsbD (7 - c) then
      (Canvas.drawColumns cfg b cx row c k).xorPixel (row % cfg.fbHeight.val) ((cx + c) % cfg.fbWidth.val)
    else Canvas.drawColumns cfg b cx row c k

/-- The first `n` rows of the sprite at `I` (R191). -/
def Canvas.drawRows (s : State) (cx cy : Nat) : Nat → Canvas → Canvas
  | 0, k => k
  | r + 1, k =>
    Canvas.drawColumns s.cfg (s.memRead (s.i.toNat + r)) cx (cy + r) 8 (Canvas.drawRows s cx cy r k)

/-- The frame buffer with every pixel off (R190). -/
def blankScreen : FrameBuffer :=
  Vector.replicate 32 (Vector.replicate 64 false)

/-- The pixels and DIRTY after an instruction that draws (R32, R33). -/
def State.setScreen (s : State) (fb : FrameBuffer) : State :=
  { s with fb := fb, dirty := true }

/-! ## Bulk moves between registers and memory -/

/-- `MemWrite(I + k, 1, V[k])` for k from 0 to n - 1 (R234). -/
def State.storeRegs (s : State) : Nat → State
  | 0 => s
  | n + 1 => (s.storeRegs n).memWrite (s.i.toNat + n) (s.readV (BitVec.ofNat 4 n))

/-- `V[k] <- MemRead(I + k, 1)` for k from 0 to n - 1 (R235). -/
def State.loadRegs (s : State) : Nat → State
  | 0 => s
  | n + 1 => (s.loadRegs n).writeV (BitVec.ofNat 4 n) (s.memRead (s.i.toNat + n))

/-- `I` after LD [I],Vx and LD Vx,[I] (R234, R235): `I + n` when LDST_INCREMENTS_I, else unchanged. -/
def State.bumpI (s : State) (n : Nat) : State :=
  if s.cfg.ldstIncrementsI then s.setI (BitVec.ofNat 16 (s.i.toNat + n)) else s

/-! ## Timers -/

/-- One count down, stopping at 0 (R30, R262). -/
def countDown (b : Byte) : Byte :=
  if b = 0#8 then 0#8 else b - 1#8

/-- The condition of the timer tick, strict (R262, 90_conflicts.md C2). -/
def State.tickDue (s : State) : Bool :=
  decide (s.lastTick < s.now) && decide (s.cfg.timeUnitsPerSecond < s.cfg.tickHz * (s.now - s.lastTick))

/-- `Tick(now)` (R262). -/
def State.tick (s : State) : State :=
  { s with
    dt := if s.tickDue then countDown s.dt else s.dt
    st := if s.tickDue then countDown s.st else s.st
    lastTick := if s.tickDue then s.now else s.lastTick }

/-- `sound_active` (R131): ST > 0. -/
def State.soundActive (s : State) : Bool :=
  decide (0 < s.st.toNat)

end Sys2Proof.Machine
end

