-- ==== Sys2Proof/Machine/Operands.lean ====
section
/-! DEFINITION. The operand forms: how an instruction's fields name a value (00_scope.md R11, 30_encoding.md R83, and the
instruction rules). -/

namespace Sys2Proof.Machine

/-- `zext_16(NNN)` (R83). -/
def zextAddr (nnn : Addr12) : Word :=
  nnn.setWidth 16

/-- `zext_16(V[0])` (R147). -/
def zextByte (b : Byte) : Word :=
  b.setWidth 16

/-- The register SHR and SHL shift, by SHIFT_SOURCE (R168, R170). -/
def State.shiftOperand (s : State) (x y : Nibble) : Byte :=
  match s.cfg.shiftSource with
  | .vx => s.readV x
  | .vy => s.readV y

/-- `digit_value(Vx)` by FONT_DIGIT_MODE (R232). -/
def fontDigit (mode : FontDigitMode) (b : Byte) : Nat :=
  match mode with
  | .lowNibble => b.toNat % 16
  | .fullByte => b.toNat

/-- The address of a glyph, `FONT_BASE + d × FONT_GLYPH_SIZE`, as a 16-bit value (R232, log entry 10). -/
def State.glyphAddress (s : State) (x : Nibble) : Word :=
  BitVec.ofNat 16 (s.cfg.fontBase + fontDigit s.cfg.fontDigitMode (s.readV x) * s.cfg.fontGlyphSize)

/-- The BCD digits of a byte (R233). -/
def hundreds (b : Byte) : Byte :=
  BitVec.ofNat 8 (b.toNat / 100)

/-- The tens digit (R233). -/
def tens (b : Byte) : Byte :=
  BitVec.ofNat 8 (b.toNat / 10 % 10)

/-- The ones digit (R233). -/
def ones (b : Byte) : Byte :=
  BitVec.ofNat 8 (b.toNat % 10)

/-- `KEY[V[x]]` (R11, R210); false where there is no such key, which SKP and SKNP check first. -/
def State.keyOf (s : State) (x : Nibble) : Bool :=
  if h : (s.readV x).toNat < s.cfg.numKeys.val then
    s.key[(s.readV x).toNat]'(Nat.lt_of_lt_of_eq h s.cfg.numKeys.property)
  else false

/-- The lowest pressed key at or above `from`, looking at `n` keys: `min { k | KEY[k] }` (R213). -/
def lowestKey (key : Vector Bool 16) : Nat → Nat → Option Nat
  | 0, _ => none
  | n + 1, k => if key.toList.getD k false then some k else lowestKey key n (k + 1)

/-- The lowest pressed key of the pad, none when no key is pressed (R213). -/
def State.firstKey? (s : State) : Option Nat :=
  lowestKey s.key s.cfg.numKeys.val 0

end Sys2Proof.Machine
end

