-- ==== Sys2Proof/Machine/AddressMemory.lean ====
section
/-! DEFINITION. Address-register and memory instructions (45_address_memory.md). Every address is checked before the first
write (20_memory.md R63). -/

namespace Sys2Proof.Machine

/-- LD I, nnn (R230). -/
def execLdI (nnn : Addr12) (s : State) : Result :=
  .next (s.setI (zextAddr nnn)).advance

/-- ADD I, Vx (R231): the addend is read before VF is written. -/
def execAddI (x : Nibble) (s : State) : Result :=
  .next (if s.cfg.addISetsVf then
      ((s.setI (s.i + zextByte (s.readV x))).setFlag (addIOverflow s.cfg.addIOverflowLimit s.i (s.readV x))).advance
    else (s.setI (s.i + zextByte (s.readV x))).advance)

/-- LD F, Vx (R232). -/
def execLdF (x : Nibble) (s : State) : Result :=
  .next (s.setI (s.glyphAddress x)).advance

/-- LD B, Vx (R233). -/
def execLdB (x : Nibble) (s : State) : Result :=
  fatalIf (s.cfg.memSize ≤ s.i.toNat + 2) .memoryOutOfRange s
    (((s.memWrite s.i.toNat (hundreds (s.readV x))).memWrite (s.i.toNat + 1) (tens (s.readV x))).memWrite
      (s.i.toNat + 2) (ones (s.readV x))).advance

/-- LD [I], Vx (R234): V0 to Vx inclusive, bounded by the index x. -/
def execStRegs (x : Nibble) (s : State) : Result :=
  fatalIf (s.cfg.memSize ≤ s.i.toNat + x.toNat) .memoryOutOfRange s
    ((s.storeRegs (x.toNat + 1)).bumpI (x.toNat + 1)).advance

/-- LD Vx, [I] (R235): V0 to Vx inclusive, bounded by the index x. -/
def execLdRegs (x : Nibble) (s : State) : Result :=
  fatalIf (s.cfg.memSize ≤ s.i.toNat + x.toNat) .memoryOutOfRange s
    ((s.loadRegs (x.toNat + 1)).bumpI (x.toNat + 1)).advance

end Sys2Proof.Machine
end

