-- ==== Sys2Proof/Machine/Alu.lean ====
section
/-! DEFINITION. Register loads, arithmetic and logic (42_alu.md). Operands are read from the state before the instruction
(R10, R159). -/

namespace Sys2Proof.Machine

/-- LD Vx, kk (R160). -/
def execLdImm (x : Nibble) (kk : Byte) (s : State) : Result :=
  .next (s.writeV x kk).advance

/-- ADD Vx, kk (R161): wraps, writes no flag. -/
def execAddImm (x : Nibble) (kk : Byte) (s : State) : Result :=
  .next (s.writeV x (s.readV x + kk)).advance

/-- LD Vx, Vy (R162). -/
def execLdReg (x y : Nibble) (s : State) : Result :=
  .next (s.writeV x (s.readV y)).advance

/-- OR Vx, Vy (R163). -/
def execOrReg (x y : Nibble) (s : State) : Result :=
  .next (s.writeV x (s.readV x ||| s.readV y)).advance

/-- AND Vx, Vy (R164). -/
def execAndReg (x y : Nibble) (s : State) : Result :=
  .next (s.writeV x (s.readV x &&& s.readV y)).advance

/-- XOR Vx, Vy (R165). -/
def execXorReg (x y : Nibble) (s : State) : Result :=
  .next (s.writeV x (s.readV x ^^^ s.readV y)).advance

/-- ADD Vx, Vy (R166). -/
def execAddReg (x y : Nibble) (s : State) : Result :=
  .next (s.writeWithFlag x (s.readV x + s.readV y) (carryOut (s.readV x) (s.readV y))).advance

/-- SUB Vx, Vy (R167). -/
def execSub (x y : Nibble) (s : State) : Result :=
  .next (s.writeWithFlag x (s.readV x - s.readV y)
    (borrowFlag s.cfg.subFlagMode (s.readV x) (s.readV y))).advance

/-- SHR Vx, Vy (R168): always by one bit. -/
def execShr (x y : Nibble) (s : State) : Result :=
  .next (s.writeWithFlag x (s.shiftOperand x y >>> 1) (shiftedOutRight (s.shiftOperand x y))).advance

/-- SUBN Vx, Vy (R169). -/
def execSubn (x y : Nibble) (s : State) : Result :=
  .next (s.writeWithFlag x (s.readV y - s.readV x)
    (borrowFlag s.cfg.subFlagMode (s.readV y) (s.readV x))).advance

/-- SHL Vx, Vy (R170): always by one bit. -/
def execShl (x y : Nibble) (s : State) : Result :=
  .next (s.writeWithFlag x (s.shiftOperand x y <<< 1) (shiftedOutLeft (s.shiftOperand x y))).advance

/-- RND Vx, kk (R171): `RAND` is the step's own free input (R133). -/
def execRnd (x : Nibble) (kk : Byte) (s : State) : Result :=
  .next (s.writeV x (s.rand &&& kk)).advance

end Sys2Proof.Machine
end

