-- ==== Sys2Proof/Machine/ControlFlow.lean ====
section
/-! DEFINITION. Control transfer: return, jumps, call and skips (41_control_flow.md). -/

namespace Sys2Proof.Machine

/-- RET (R140): the popped CALL address plus 2; StackUnderflow on an empty stack. -/
def execRet (s : State) : Result :=
  .next (match s.pop? with
    | some (a, t) => t.setPc (a + 2#16)
    | none => s.raise .stackUnderflow)

/-- JP nnn (R141). -/
def execJp (nnn : Addr12) (s : State) : Result :=
  .next (s.setPc (zextAddr nnn))

/-- CALL nnn (R142): pushes this CALL's own address; StackOverflow on a full stack. -/
def execCall (nnn : Addr12) (s : State) : Result :=
  .next (match s.push? s.pc with
    | some t => t.setPc (zextAddr nnn)
    | none => s.raise .stackOverflow)

/-- SE Vx, kk (R143). -/
def execSeImm (x : Nibble) (kk : Byte) (s : State) : Result :=
  .next (s.skipIf (s.readV x == kk))

/-- SNE Vx, kk (R144). -/
def execSneImm (x : Nibble) (kk : Byte) (s : State) : Result :=
  .next (s.skipIf (s.readV x != kk))

/-- SE Vx, Vy (R145). -/
def execSeReg (x y : Nibble) (s : State) : Result :=
  .next (s.skipIf (s.readV x == s.readV y))

/-- SNE Vx, Vy (R146). -/
def execSneReg (x y : Nibble) (s : State) : Result :=
  .next (s.skipIf (s.readV x != s.readV y))

/-- JP V0, nnn (R147): the sum is not masked. -/
def execJpV0 (nnn : Addr12) (s : State) : Result :=
  .next (s.setPc (zextAddr nnn + zextByte (s.readV 0x0#4)))

end Sys2Proof.Machine
end

