-- ==== Sys2Proof/Machine/Display.lean ====
section
/-! DEFINITION. Frame-buffer instructions (43_display.md). -/

namespace Sys2Proof.Machine

/-- CLS (R190): DIRTY is set even when the frame buffer was already clear. -/
def execCls (s : State) : Result :=
  .next (s.setScreen blankScreen).advance

/-- The frame buffer and the collision after DRW (R191): `n` rows drawn from column V[x] and row V[y]. -/
def State.drawSprite (s : State) (x y n : Nibble) : Canvas :=
  Canvas.drawRows s (s.readV x).toNat (s.readV y).toNat n.toNat ⟨s.fb, false⟩

/-- DRW Vx, Vy, n (R191): MemoryOutOfRange before any pixel changes; with n = 0 no memory is read. -/
def execDrw (x y n : Nibble) (s : State) : Result :=
  fatalIf (0 < n.toNat ∧ s.cfg.memSize ≤ s.i.toNat + n.toNat - 1) .memoryOutOfRange s
    ((s.setScreen (s.drawSprite x y n).fb).setFlag (s.drawSprite x y n).collide).advance

end Sys2Proof.Machine
end

