-- ==== Sys2Proof/Machine/KeysTimers.lean ====
section
/-! DEFINITION. Key-pad and timer instructions (44_keys_timers.md). -/

namespace Sys2Proof.Machine

/-- SKP Vx (R210): an index of NUM_KEYS or more is fatal (decision D18). -/
def execSkp (x : Nibble) (s : State) : Result :=
  fatalIf (s.cfg.numKeys.val ≤ (s.readV x).toNat) .keyIndexOutOfRange s (s.skipIf (s.keyOf x))

/-- SKNP Vx (R211): an index of NUM_KEYS or more is fatal (decision D18). -/
def execSknp (x : Nibble) (s : State) : Result :=
  fatalIf (s.cfg.numKeys.val ≤ (s.readV x).toNat) .keyIndexOutOfRange s (s.skipIf (!s.keyOf x))

/-- LD Vx, DT (R212): DT before this step's tick. -/
def execLdVxDt (x : Nibble) (s : State) : Result :=
  .next (s.writeV x s.dt).advance

/-- LD Vx, K (R213): `hold()` while no key is pressed, else the lowest pressed key. -/
def execLdVxK (x : Nibble) (s : State) : Result :=
  .next (match s.firstKey? with
    | some k => (s.writeV x (BitVec.ofNat 8 k)).advance
    | none => s)

/-- LD DT, Vx (R214). -/
def execLdDtVx (x : Nibble) (s : State) : Result :=
  .next { s with dt := s.readV x }.advance

/-- LD ST, Vx (R215). -/
def execLdStVx (x : Nibble) (s : State) : Result :=
  .next { s with st := s.readV x }.advance

end Sys2Proof.Machine
end

