-- ==== Sys2Proof/Machine/Cycle.lean ====
section
/-! DEFINITION. The execution cycle: `Step` (40_execution_cycle.md R122, R123), its end, and the host's turn between steps
(60_exceptions.md R266, R270). -/

namespace Sys2Proof.Machine

/-- A step that returns without executing: the outputs are `st`, no render notification, and `sound_active` as it stands
(R122, R124, R131). -/
def State.report (s : State) (st : StepStatus) : State :=
  { s with out := ⟨st, false, s.soundActive⟩ }

/-- Completion (R124): STATUS becomes HALTED; nothing else of the block's state changes. -/
def State.halt (s : State) : State :=
  { s with status := .halted }.report .halted

/-- The end of an executing step (R129, R131): the outputs are latched and DIRTY is cleared. -/
def State.endStep (s : State) : State :=
  { s with out := ⟨.cont, s.dirty, s.soundActive⟩, dirty := false }

/-- The host's turn between two steps (R133, R261, R270): any keys, a time not below the last, any random byte for the next
step. All three are free values (log entry 3). -/
def State.hostTurn (s : State) : State :=
  { s with
    key := Config.hostKeys s.inputIndex
    now := s.now + Config.stepElapsed s.inputIndex
    rand := Config.stepRand s.inputIndex
    inputIndex := s.inputIndex + 1 }

/-- After `Execute` (R123): `s` is the state before the step, `t` the state `Execute` answered. On a fatal error everything
but STATUS is as before the step, with no tick and no notification (R254); otherwise the tick, the end of the step, and the
host's turn. -/
def State.complete (s t : State) : State :=
  match t.status with
  | .faulted r => { s with status := .faulted r }.report (.fault r)
  | _ => t.tick.endStep.hostTurn

/-- A fatal error raised by the step itself, before `Execute` (R61, R126). -/
def State.stop (s : State) (code : FatalCode) : State :=
  s.complete (s.raise code)

/-- Execute one instruction and end the step. -/
def executeStep (i : Instr) (s : State) : Result :=
  match exec i s with
  | .next t => .next (s.complete t)
  | .fault r => .fault r
  | .refused r => .refused r

/-- A step requested when STATUS = RUN (R123), in the order of R253: completion, fetch fault, UnimplementedOpcode, the
instruction. -/
def runStep (s : State) : Result :=
  if s.endAddr.toNat ≤ s.pc.toNat then .next s.halt
  else
    match s.fetch with
    | none => .next (s.stop .memoryOutOfRange)
    | some w =>
      match decodeWord s.cfg.strictDecode w with
      | none => .next (s.stop .unimplementedOpcode)
      | some i => executeStep i s

/-- A step (R122, R123): when STATUS is not RUN, no state changes and the same outcome is returned again. -/
def cycle (s : State) : Result :=
  match s.status with
  | .run => runStep s
  | .halted => .next (s.report .halted)
  | .faulted r => .next (s.report (.fault r))

/-- The word `w` as the instruction the next step runs: stored big-endian at `pc` (R61) as a loaded program of one
instruction would be, with STATUS = RUN and END above `pc` (R123, R124, log entry 4). -/
def State.placeWord (s : State) (w : Word) : State :=
  { s with
    status := .run
    endAddr := if s.pc.toNat < s.endAddr.toNat then s.endAddr else s.pc + 2#16
    mem := Memory.writeBytes s.cfg s.mem s.pc.toNat [highByte w, lowByte w] }

end Sys2Proof.Machine
end

