-- ==== Sys2Proof/Machine/Step.lean ====
section
/-! DEFINITION. The step of the machine, and how one instruction is placed for it. -/

namespace Sys2Proof.Machine

/-- One step (40_execution_cycle.md R122, R123) and the host's turn after it. -/
def step (s : State) : Host.Outcome State Fault Refusal :=
  cycle s

/-- The instruction whose bits are `w` (bit 0 the least significant bit of its one word, every bit above `nbits` zero), where
step fetches its next instruction. -/
def State.withFetchWord (s : State) (nbits w : Nat) : State :=
  s.placeWord (BitVec.ofNat 16 (w % 2 ^ nbits))

end Sys2Proof.Machine
end

