-- ==== Sys2Proof/WellFormed.lean ====
section
/-! DEFINITION. The checks on data that the types do not carry. An instruction needs none: each operand's range is its
type's (30_encoding.md R83), so no `Instr` is ill-formed. What can be ill-formed is a field record whose overlapping fields
disagree (R83), a configuration whose parts contradict each other (00_scope.md R4), and an image that does not fit (R280). -/

namespace Sys2Proof

/-- The overlapping fields agree: `KK = Y × 16 + N` and `NNN = X × 256 + KK` (R83). Every record the decoder extracts is
well-formed. -/
def Fields.wellFormed (f : Fields) : Bool :=
  f.kk.toNat == f.y.toNat * 16 + f.n.toNat && f.nnn.toNat == f.x.toNat * 256 + f.kk.toNat

/-- MEM_SIZE is at most 0x1000, the bound `END ≤ 0x1000` of R128. -/
def Cfg.memoryFits (c : Cfg) : Bool :=
  decide (c.memSize ≤ 0x1000)

/-- The load address lies in memory (R280). -/
def Cfg.loadAddrFits (c : Cfg) : Bool :=
  decide (c.loadAddr ≤ c.memSize)

/-- The font table has 16 glyphs of FONT_GLYPH_SIZE bytes (R40). -/
def Cfg.fontComplete (c : Cfg) : Bool :=
  decide (c.fontTable.length = 16 * c.fontGlyphSize)

/-- The font table lies in memory (R40). -/
def Cfg.fontFits (c : Cfg) : Bool :=
  decide (c.fontBase + c.fontTable.length ≤ c.memSize)

/-- Every address LD F can form is a 16-bit value (R232). -/
def Cfg.fontAddressable (c : Cfg) : Bool :=
  decide (c.fontBase + 255 * c.fontGlyphSize < 0x10000)

/-- The parts of a configuration agree with each other. Every OPEN parameter stays free. -/
def Cfg.wellFormed (c : Cfg) : Bool :=
  c.memoryFits && c.loadAddrFits && c.fontComplete && c.fontFits && c.fontAddressable

/-- The image fits in the memory at and above the load address: load accepts it (R280). -/
def imageFits (c : Cfg) (image : List Byte) : Bool :=
  decide (c.loadAddr + image.length ≤ c.memSize)

end Sys2Proof
end

