-- ==== Sys2Proof/Machine/Load.lean ====
section
/-! DEFINITION. Load, the block's only reset (70_reset_and_hazards.md R280, R281). -/

namespace Sys2Proof.Machine

/-- `load_result` (R121): a machine state, or LoadError with the image length (R250). -/
inductive LoadResult where
  | ok (s : State)
  | loadError (len : Nat)
deriving DecidableEq, Repr

/-- The numeric code of a fatal error (R250, Table 1). -/
def FatalCode.number : FatalCode → Nat
  | .unimplementedOpcode => 1
  | .stackOverflow => 2
  | .stackUnderflow => 3
  | .memoryOutOfRange => 4
  | .keyIndexOutOfRange => 5
  | .loadError => 6

/-- `Load(image, t0)` (R280): the image is written after the font; an image that does not fit gives no machine state. -/
def load (cfg : Cfg) (image : List Byte) (t0 : Nat) : LoadResult :=
  if imageFits cfg image then
    .ok (State.afterLoad cfg (Memory.writeBytes cfg [] cfg.loadAddr image) image.length t0)
  else .loadError image.length

/-- The host's inputs for one step (R121, R270): the key pad it leaves between steps, the time and the random byte. -/
def State.hostInput (s : State) (key : Vector Bool 16) (now : Nat) (rand : Byte) : State :=
  { s with key := key, now := now, rand := rand }

end Sys2Proof.Machine
end

