-- ==== Sys2Proof/Safety.lean ====
section
/-! DEFINITION. What counts as a safe run, and the invariant of the machine that the statements use. -/

namespace Sys2Proof.Machine

/-- No fatal error has stopped the machine (60_exceptions.md R252, R254). -/
def State.Safe (s : State) : Prop :=
  ∀ r, s.status ≠ .faulted r

/-- The outcome a step reports when it leaves this STATUS (R121, R122, R130). -/
def reported : Status → StepStatus
  | .run => .cont
  | .halted => .halted
  | .faulted r => .fault r

/-- What every state between two steps satisfies, whatever the program and the host did. -/
structure State.Inv (s : State) : Prop where
  /-- The configuration's parts agree with each other (R4). -/
  cfgOk : s.cfg.wellFormed = true
  /-- Memory keeps its canonical form: equal memories are equal data. -/
  memOk : Memory.wf s.cfg s.mem = true
  /-- DIRTY is false between steps (R33). -/
  clean : s.dirty = false
  /-- The last tick is not in the future (R261, R262). -/
  timeOk : s.lastTick ≤ s.now
  /-- `END ≤ MEM_SIZE` (R128, R280). -/
  endOk : s.endAddr.toNat ≤ s.cfg.memSize
  /-- An entry in use is the address of an executed CALL, so it lies in memory (R142). -/
  stackOk : ∀ (k : Nat) (h : k < 16), k < s.sp.val → (s.stack[k]'h).toNat < s.cfg.memSize
  /-- No reachable `pc` exceeds 0x10FE, so its 16-bit wrap never takes effect (R128, R147). -/
  pcOk : s.pc.toNat ≤ 0x10FE
  /-- A halted machine stands at or past END (R124). -/
  haltOk : s.status = .halted → s.endAddr.toNat ≤ s.pc.toNat
  /-- A fault record names the instruction the machine still stands at (R254, R255). -/
  faultOk : ∀ r, s.status = .faulted r → r.pc = s.pc ∧ r.word = s.fetch ∧ r.code ≠ .loadError
  /-- The last step's outcome agrees with STATUS (R122, R130). -/
  outOk : s.out.status = reported s.status
  /-- `sound_active` is `ST > 0` (R131). -/
  soundOk : s.out.soundActive = s.soundActive

end Sys2Proof.Machine
end

