-- ==== Sys2Proof/Certificates/Slice0/Obligations.lean ====
section
/-! DEFINITION. The statements for the provers. Each is about every state, so about every value of the OPEN parameters of
00_scope.md R4 and of the host's inputs, which a state holds. -/

namespace Sys2Proof.Claims

open Sys2Proof.Machine

/-- The words of an encoding: in each decoding mode, every word whose masked bits are the match value decodes to the
instruction whose operands are the word's own fields (R81, R88). -/
def encodedAs (bits mask strictMask : Word) (i : Fields → Instr) : Prop :=
  ∀ (strict : Bool) (w : Word), w &&& (if strict then strictMask else mask) = bits →
    decodeWord strict w = some (i (Fields.ofWord w))

/-- `t` is `s` but for the general registers and `pc`, and `pc` is `p`. -/
def regsAndPc (s t : State) (p : Word) : Prop :=
  t = { s with v := t.v, pc := p }

/-- The instruction at `pc` is `i`, and the machine is about to run it (R123 to R126). -/
def runsNext (s : State) (i : Instr) : Prop :=
  s.status = .run ∧ s.pc.toNat < s.endAddr.toNat ∧
    ∃ w, s.fetch = some w ∧ decodeWord s.cfg.strictDecode w = some i

/-- The state with the fatal error `code` recorded for the instruction at `pc`, and nothing else changed (R254). -/
def faultedAt (s : State) (code : FatalCode) (word : Option Word) : State :=
  { s with status := .faulted ⟨code, s.pc, word⟩ }

/-- What a run does next once `pc` has reached `p` (R124, R290): in every running state with that `pc` and END at or below
it, the next step halts. -/
def haltsIfPastEnd (s : State) (p : Word) : Prop :=
  ∀ u : State, u.status = .run → u.pc = p → u.endAddr = s.endAddr → s.endAddr.toNat ≤ p.toNat →
    ∃ h, step u = .next h ∧ h.status = .halted ∧ h.out.status = .halted

/-- The illegal words of R90, by their fields. -/
def illegal (strict : Bool) (f : Fields) : Prop :=
  (f.c = 0x0 ∧ f.kk ≠ 0xE0 ∧ f.kk ≠ 0xEE) ∨
  (f.c = 0x8 ∧ f.n ∈ [(0x8 : Nibble), 0x9, 0xA, 0xB, 0xC, 0xD, 0xF]) ∨
  (f.c = 0x9 ∧ f.n ≠ 0x0) ∨
  (f.c = 0xE ∧ f.kk ≠ 0x9E ∧ f.kk ≠ 0xA1) ∨
  (f.c = 0xF ∧ f.kk ∉ [(0x07 : Byte), 0x0A, 0x15, 0x18, 0x1E, 0x29, 0x33, 0x55, 0x65]) ∨
  (strict = true ∧ f.c = 0x0 ∧ f.x ≠ 0x0) ∨
  (strict = true ∧ f.c = 0x5 ∧ f.n ≠ 0x0)

/-- R22's table: whether an instruction may write register `k` in state `s`. -/
def writesRegister (s : State) (k : Nibble) : Instr → Prop
  | .ldImm x _ | .addImm x _ | .ldReg x _ | .orReg x _ | .andReg x _ | .xorReg x _ | .rnd x _ | .ldVxDt x => k = x
  | .addReg x _ | .sub x _ | .shr x _ | .subn x _ | .shl x _ => k = x ∨ k = 0xF
  | .drw _ _ _ => k = 0xF
  | .ldVxK x => k = x ∧ ∃ (j : Nat) (h : j < 16), (s.key[j]'h) = true
  | .addI _ => k = 0xF ∧ s.cfg.addISetsVf = true
  | .ldRegs x => k.toNat ≤ x.toNat
  | .cls | .ret | .jp _ | .call _ | .seImm _ _ | .sneImm _ _ | .seReg _ _ | .sneReg _ _ | .ldI _ | .jpV0 _ => False
  | .skp _ | .sknp _ | .ldDtVx _ | .ldStVx _ | .ldF _ | .ldB _ | .stRegs _ => False

/-- The address an instruction stores to and how many bytes: LD B and LD [I],Vx store at `I`, nothing else stores (R60). -/
def stores (s : State) : Instr → Option (Nat × Nat)
  | .ldB _ => some (s.i.toNat, 3)
  | .stRegs x => some (s.i.toNat, x.toNat + 1)
  | _ => none

/-- The instructions that write `I` (R23). -/
def writesI (s : State) : Instr → Prop
  | .ldI _ | .addI _ | .ldF _ => True
  | .stRegs _ | .ldRegs _ => s.cfg.ldstIncrementsI = true
  | _ => False

/-- The instructions whose effect on `pc` is not an advance by 2, and where each leaves it when it raises no fatal error
(R25). -/
def nextPc (s : State) : Instr → Word
  | .jp nnn | .call nnn => nnn.setWidth 16
  | .jpV0 nnn => nnn.setWidth 16 + (s.readV 0x0).setWidth 16
  | .ret => s.stack.toList.getD (s.sp.val - 1) 0 + 2
  | .seImm x kk => if s.readV x = kk then s.pc + 4 else s.pc + 2
  | .sneImm x kk => if s.readV x ≠ kk then s.pc + 4 else s.pc + 2
  | .seReg x y => if s.readV x = s.readV y then s.pc + 4 else s.pc + 2
  | .sneReg x y => if s.readV x ≠ s.readV y then s.pc + 4 else s.pc + 2
  | .skp x => if s.key.toList.getD (s.readV x).toNat false = true then s.pc + 4 else s.pc + 2
  | .sknp x => if s.key.toList.getD (s.readV x).toNat false = false then s.pc + 4 else s.pc + 2
  | .ldVxK _ => if true ∈ s.key.toList then s.pc + 2 else s.pc
  | _ => s.pc + 2

/-- The sprite bit that DRW XORs onto pixel (row, col): the pixel lies `dr` rows below and `dc` columns right of the
sprite's corner, each distance taken with wrap-around (R191). -/
def spriteBit (s : State) (x y n : Nibble) (row col : Nat) : Bool :=
  let dr := (row + 32 - (s.readV y).toNat % 32) % 32
  let dc := (col + 64 - (s.readV x).toNat % 64) % 64
  decide (dr < n.toNat) && decide (dc < 8) && (s.memRead (s.i.toNat + dr)).getLsbD (7 - dc)

/-- The condition of the timer tick (R262). -/
def tickCondition (s : State) : Prop :=
  s.now > s.lastTick ∧ s.cfg.tickHz * (s.now - s.lastTick) > s.cfg.timeUnitsPerSecond

end Sys2Proof.Claims

open Sys2Proof Sys2Proof.Machine Sys2Proof.Claims

/-! ## Decoder and encoder -/

/-- R81: the six fields of a word, by arithmetic on its value. -/
def Obligations.FieldExtraction : Prop :=
  ∀ w : Word,
    (Fields.ofWord w).c.toNat = w.toNat / 4096 ∧
    (Fields.ofWord w).x.toNat = w.toNat / 256 % 16 ∧
    (Fields.ofWord w).y.toNat = w.toNat / 16 % 16 ∧
    (Fields.ofWord w).n.toNat = w.toNat % 16 ∧
    (Fields.ofWord w).kk.toNat = w.toNat % 256 ∧
    (Fields.ofWord w).nnn.toNat = w.toNat % 4096 ∧
    (Fields.ofWord w).wellFormed = true

/-- R84: building a word from its nibbles and extracting its fields are inverse to each other. -/
def Obligations.FieldsRoundTrip : Prop :=
  (∀ c x y n : Nibble,
    (wordOfNibbles c x y n).toNat = c.toNat * 4096 + x.toNat * 256 + y.toNat * 16 + n.toNat ∧
    (Fields.ofWord (wordOfNibbles c x y n)).c = c ∧
    (Fields.ofWord (wordOfNibbles c x y n)).x = x ∧
    (Fields.ofWord (wordOfNibbles c x y n)).y = y ∧
    (Fields.ofWord (wordOfNibbles c x y n)).n = n ∧
    (Fields.ofWord (wordOfNibbles c x y n)).kk.toNat = y.toNat * 16 + n.toNat ∧
    (Fields.ofWord (wordOfNibbles c x y n)).nnn.toNat = x.toNat * 256 + y.toNat * 16 + n.toNat) ∧
  ∀ w : Word, wordOfNibbles (Fields.ofWord w).c (Fields.ofWord w).x (Fields.ofWord w).y (Fields.ofWord w).n = w

/-- R81, R84, R88: the decoder reads every instruction back from the bytes of its encoding, in both decoding modes, and
leaves the bytes after it. -/
def Obligations.DecodeOfEncode : Prop :=
  ∀ (strict : Bool) (i : Instr) (rest : List Byte),
    decode strict (encodeBytes i ++ rest) = .ok (i, rest)

/-- R88: a word selects a row exactly when it decodes to an instruction of that row, and no word selects two rows.
Most encodings are the spec's general knowledge (R87, D11). -/
def Obligations.DispatchFollowsOpcodeMap : Prop :=
  (∀ (strict : Bool) (w : Word) (j : Instr),
    j.pattern.selectedBy strict w ↔ ∃ i, decodeWord strict w = some i ∧ i.pattern = j.pattern) ∧
  ∀ (strict : Bool) (w : Word) (i j : Instr),
    i.pattern.selectedBy strict w → j.pattern.selectedBy strict w → i.pattern = j.pattern

/-- R90: the words that match no row are exactly these, the dispatch selects nothing for them, and running one stops the
machine with UnimplementedOpcode, the rest of the state as before the step. -/
def Obligations.IllegalWordsAreFatal : Prop :=
  (∀ (strict : Bool) (w : Word), illegal strict (Fields.ofWord w) ↔ ∀ i : Instr, ¬i.pattern.selectedBy strict w) ∧
  (∀ (strict : Bool) (w : Word), decodeWord strict w = none ↔ illegal strict (Fields.ofWord w)) ∧
  ∀ (s : State) (w : Word), s.status = .run → s.pc.toNat < s.endAddr.toNat → s.fetch = some w →
    illegal s.cfg.strictDecode (Fields.ofWord w) →
    step s = .next { faultedAt s .unimplementedOpcode (some w) with
      out := ⟨.fault ⟨.unimplementedOpcode, s.pc, some w⟩, false, decide (0 < s.st.toNat)⟩ }

/-- Words written out from R88, Table 2, one of each family, and what they decode to. -/
def Obligations.SampleWordsDecode : Prop :=
  decodeWord false 0x00E0 = some .cls ∧ decodeWord false 0x0FEE = some .ret ∧
  decodeWord true 0x0FEE = none ∧ decodeWord false 0x1ABC = some (.jp 0xABC) ∧
  decodeWord true 0x5120 = some (.seReg 0x1 0x2) ∧ decodeWord true 0x5121 = none ∧
  decodeWord false 0x6005 = some (.ldImm 0x0 0x05) ∧ decodeWord false 0x8AB6 = some (.shr 0xA 0xB) ∧
  decodeWord false 0xDABC = some (.drw 0xA 0xB 0xC) ∧ decodeWord false 0xE19E = some (.skp 0x1) ∧
  decodeWord false 0xF165 = some (.ldRegs 0x1) ∧ decodeWord false 0xFFFF = none

/-! ## The step -/

/-- R61: the fetch is big-endian, wants both bytes in memory, and without them the step stops with MemoryOutOfRange and no
word.
The byte order and the bound are the spec's decisions D5 and D4. -/
def Obligations.FetchIsBigEndianAndBounded : Prop :=
  (∀ (s : State) (a : Nat), s.cfg.memSize ≤ a + 1 → s.fetchAt a = none) ∧
  (∀ (s : State) (a : Nat), a + 1 < s.cfg.memSize →
    ∃ w, s.fetchAt a = some w ∧ w.toNat = (s.memRead a).toNat * 256 + (s.memRead (a + 1)).toNat) ∧
  ∀ s : State, s.status = .run → s.pc.toNat < s.endAddr.toNat → s.cfg.memSize ≤ s.pc.toNat + 1 →
    step s = .next { faultedAt s .memoryOutOfRange none with
      out := ⟨.fault ⟨.memoryOutOfRange, s.pc, none⟩, false, decide (0 < s.st.toNat)⟩ }

/-- R123, R127: when the bytes at pc decode to an instruction, the step is Execute of it; without a fatal error the tick,
the end of the step and the host's turn follow, and with one the step is rolled back.
The place of the tick and the rollback are the spec's decisions D9 and D19; the host's turn is
the model's (log entry 3). -/
def Obligations.StepRunsDecodedInstruction : Prop :=
  ∀ (s t : State) (i : Instr), runsNext s i → exec i s = .next t →
    (t.status = .run → step s = .next t.tick.endStep.hostTurn) ∧
    ∀ r, t.status = .faulted r →
      step s = .next { s with status := .faulted r, out := ⟨.fault r, false, decide (0 < s.st.toNat)⟩ }

/-- R124: at or past END the step halts before any fetch, changes nothing but STATUS and reports HALTED; below END it never
halts. END includes LOAD_ADDR.
The bound is the spec's decision D7. -/
def Obligations.CompletionHalts : Prop :=
  (∀ s : State, s.status = .run → s.endAddr.toNat ≤ s.pc.toNat →
    step s = .next { s with status := .halted, out := ⟨.halted, false, decide (0 < s.st.toNat)⟩ }) ∧
  (∀ s t : State, s.status = .run → s.pc.toNat < s.endAddr.toNat → step s = .next t → t.status ≠ .halted) ∧
  ∀ (cfg : Cfg) (image : List Byte) (t0 : Nat) (s : State), load cfg image t0 = .ok s →
    s.endAddr = BitVec.ofNat 16 (cfg.loadAddr + image.length)

/-- R122: a step requested when STATUS is not RUN changes no state and returns the same outcome again.
The latched outcome is the spec's decision D8. -/
def Obligations.StoppedMachineStaysStopped : Prop :=
  ∀ s : State,
    (s.status = .halted → step s = .next { s with out := ⟨.halted, false, decide (0 < s.st.toNat)⟩ }) ∧
    ∀ r, s.status = .faulted r → step s = .next { s with out := ⟨.fault r, false, decide (0 < s.st.toNat)⟩ }

/-- R254: a step that ends in a fatal error leaves everything but STATUS and the outputs as it was, and records the address
and the word of the instruction.
Precise entry is the spec's decision D9; it is a next state here (log entry 5). -/
def Obligations.FaultEntryIsPrecise : Prop :=
  ∀ (s t : State) (r : FaultRecord), s.status = .run → step s = .next t → t.status = .faulted r →
    t = { s with status := .faulted r, out := ⟨.fault r, false, decide (0 < s.st.toNat)⟩ } ∧
    r.pc = s.pc ∧ r.word = s.fetch

/-- R250, R253: which fatal error a running step ends in, in the fixed order: the fetch, the dispatch, the instruction.
The order is the spec's decision D9, the codes D4, D18 and D24. -/
def Obligations.FatalErrorsInOrder : Prop :=
  ∀ (s t : State) (r : FaultRecord), s.status = .run → step s = .next t → t.status = .faulted r →
    s.pc.toNat < s.endAddr.toNat ∧
    ((s.fetch = none ∧ r.code = .memoryOutOfRange) ∨
     (∃ w, s.fetch = some w ∧ decodeWord s.cfg.strictDecode w = none ∧ r.code = .unimplementedOpcode) ∨
     ∃ i, runsNext s i ∧
       ((∃ nnn, i = .call nnn ∧ s.sp.val = 16 ∧ r.code = .stackOverflow) ∨
        (i = .ret ∧ s.sp.val = 0 ∧ r.code = .stackUnderflow) ∨
        (r.code = .memoryOutOfRange ∧
          ((∃ x y n, i = .drw x y n ∧ 0 < n.toNat ∧ s.cfg.memSize ≤ s.i.toNat + n.toNat - 1) ∨
           (∃ x, i = .ldB x ∧ s.cfg.memSize ≤ s.i.toNat + 2) ∨
           (∃ x, (i = .stRegs x ∨ i = .ldRegs x) ∧ s.cfg.memSize ≤ s.i.toNat + x.toNat))) ∨
        (r.code = .keyIndexOutOfRange ∧ ∃ x, (i = .skp x ∨ i = .sknp x) ∧ 16 ≤ (s.readV x).toNat)))

/-- R262: the tick, its strict condition and its whole effect; it runs in every step that executes an instruction without a
fatal error, after the instruction. -/
def Obligations.TimerTick : Prop :=
  (∀ s : State,
    (tickCondition s → s.tick = { s with dt := s.tick.dt, st := s.tick.st, lastTick := s.now } ∧
      s.tick.dt.toNat = s.dt.toNat - 1 ∧ s.tick.st.toNat = s.st.toNat - 1) ∧
    (¬tickCondition s → s.tick = s)) ∧
  ∀ (s t u : State) (i : Instr), runsNext s i → exec i s = .next t → t.status = .run → step s = .next u →
    u.dt = t.tick.dt ∧ u.st = t.tick.st ∧ u.lastTick = t.tick.lastTick

/-- R264: a step that halts, faults, or finds the machine stopped moves no timer.
This is the spec's decision D19. -/
def Obligations.TimersFreezeWhenStopped : Prop :=
  ∀ s t : State, step s = .next t → t.status ≠ .run → t.dt = s.dt ∧ t.st = s.st ∧ t.lastTick = s.lastTick

/-- R129: the renderer is notified in exactly the steps that execute CLS or DRW, and DIRTY is cleared. -/
def Obligations.RenderNotification : Prop :=
  (∀ (s t u : State) (i : Instr), s.dirty = false → runsNext s i → exec i s = .next t → t.status = .run →
    step s = .next u →
      u.out.renderNotify = t.dirty ∧ u.dirty = false ∧
      (u.out.renderNotify = true ↔ i = .cls ∨ ∃ x y n, i = .drw x y n)) ∧
  ∀ s u : State, step s = .next u → u.status ≠ .run → u.out.renderNotify = false

/-- R131: sound_active after every step is ST > 0, the tick included.
This is the spec's decision D26. -/
def Obligations.SoundActive : Prop :=
  ∀ s t : State, step s = .next t → t.out.soundActive = decide (0 < t.st.toNat)

/-- R130: an executing step without a fatal error returns CONTINUE even when pc has reached END, and then the following
step returns HALTED.
The spec derives this from R123 and R124. -/
def Obligations.ContinueThenHalted : Prop :=
  ∀ (s t u : State) (i : Instr), runsNext s i → exec i s = .next t → t.status = .run → step s = .next u →
    u.status = .run ∧ u.out.status = .cont ∧
    (u.endAddr.toNat ≤ u.pc.toNat → ∃ v, step u = .next v ∧ v.status = .halted ∧ v.out.status = .halted)

/-! ## Load and reset -/

/-- R280: load refuses exactly the images that do not fit, and otherwise leaves every piece of state as given.
The zero values are the spec's decision D20, the order of the writes D29. -/
def Obligations.LoadLeavesState : Prop :=
  ∀ (cfg : Cfg) (image : List Byte) (t0 : Nat), cfg.loadAddr ≤ cfg.memSize →
    (cfg.memSize - cfg.loadAddr < image.length → load cfg image t0 = .loadError image.length) ∧
    (image.length ≤ cfg.memSize - cfg.loadAddr → ∃ s, load cfg image t0 = .ok s ∧
      (∀ a, a < cfg.memSize → s.memRead a =
        if cfg.loadAddr ≤ a ∧ a < cfg.loadAddr + image.length then image.getD (a - cfg.loadAddr) 0
        else if cfg.fontBase ≤ a ∧ a < cfg.fontBase + cfg.fontTable.length then
          cfg.fontTable.getD (a - cfg.fontBase) 0
        else 0) ∧
      (∀ k, s.readV k = 0) ∧ s.i = 0 ∧ s.sp = 0 ∧ (∀ (k : Nat) (h : k < 16), (s.stack[k]'h) = 0) ∧
      s.dt = 0 ∧ s.st = 0 ∧ (∀ r c, FrameBuffer.pixel s.fb r c = false) ∧ s.dirty = false ∧
      (∀ (k : Nat) (h : k < 16), (s.key[k]'h) = false) ∧
      s.pc = BitVec.ofNat 16 cfg.loadAddr ∧ s.endAddr = BitVec.ofNat 16 (cfg.loadAddr + image.length) ∧
      s.lastTick = t0 ∧ s.status = .run ∧ s.cfg = cfg)

/-- R284: the empty image loads, with END = LOAD_ADDR, and the first step halts.
The spec derives this from R280 and R124. -/
def Obligations.EmptyImageHalts : Prop :=
  ∀ (cfg : Cfg) (t0 : Nat), cfg.wellFormed = true →
    ∃ s u, load cfg [] t0 = .ok s ∧ s.endAddr = s.pc ∧ step s = .next u ∧ u.status = .halted ∧
      u.out.status = .halted

/-- The model's reset is the load of the empty image at time 0 in the default configuration: the model's choice (log entry
4), with the values R41 gives. -/
def Obligations.ResetIsEmptyLoad : Prop :=
  load defaultCfg [] 0 = .ok State.reset ∧ State.reset.pc = 0x200 ∧ State.reset.endAddr = 0x200 ∧
  State.reset.status = .run ∧ State.reset.lastTick = 0 ∧ State.reset.memRead 0x000 = 0xF0 ∧
  State.reset.memRead 0x04F = 0x80 ∧ State.reset.memRead 0x050 = 0 ∧ State.reset.memRead 0xFFF = 0

/-- A loaded machine satisfies the invariant, whatever fitting image it was given.
The invariant is the model's own (Sys2Proof/Safety.lean). -/
def Obligations.LoadGivesInvariant : Prop :=
  ∀ (cfg : Cfg) (image : List Byte) (t0 : Nat) (s : State), cfg.wellFormed = true → load cfg image t0 = .ok s → s.Inv

/-- The state after reset satisfies the invariant. -/
def Obligations.InvariantAtReset : Prop :=
  State.reset.Inv

/-- Every step keeps the invariant, from every state that satisfies it. -/
def Obligations.StepKeepsInvariant : Prop :=
  ∀ s t : State, s.Inv → step s = .next t → t.Inv

/-! ## What no instruction changes -/

/-- R22: no instruction writes a general register that the table does not give it.
The spec derives the table from its instruction rules. -/
def Obligations.RegistersWrittenAsListed : Prop :=
  ∀ (i : Instr) (s t : State) (k : Nibble), exec i s = .next t → ¬writesRegister s k i → t.readV k = s.readV k

/-- R60, R63: every byte of memory outside the bytes an instruction stores to reads as before, and all of them when it
raises a fatal error.
The spec derives R60 from its instruction rules; R63 is its decisions D4 and D9. -/
def Obligations.MemoryFrame : Prop :=
  ∀ (i : Instr) (s t : State) (a : Nat), Memory.wf s.cfg s.mem = true → s.status = .run → exec i s = .next t →
    (t.status ≠ .run → t.memRead a = s.memRead a) ∧
    (stores s i = none → t.memRead a = s.memRead a) ∧
    ∀ first len, stores s i = some (first, len) → ¬(first ≤ a ∧ a < first + len) → t.memRead a = s.memRead a

/-- R23: no other instruction writes I.
The list rests on the spec's decisions D15 and D16. -/
def Obligations.AddressRegisterFrame : Prop :=
  ∀ (i : Instr) (s t : State), exec i s = .next t → ¬writesI s i → t.i = s.i

/-- R27, R28: only CALL and RET touch the stack and its pointer; CALL changes no entry in use, RET no entry at all. -/
def Obligations.StackFrame : Prop :=
  ∀ (i : Instr) (s t : State), exec i s = .next t →
    ((∀ nnn, i ≠ .call nnn) → i ≠ .ret → t.sp = s.sp) ∧
    ((∀ nnn, i ≠ .call nnn) → t.stack = s.stack) ∧
    ∀ (k : Nat) (h : k < 16), k < s.sp.val → (t.stack[k]'h) = s.stack[k]'h

/-- R32, R33: only CLS and DRW change the frame buffer or DIRTY. -/
def Obligations.ScreenFrame : Prop :=
  ∀ (i : Instr) (s t : State), exec i s = .next t → i ≠ .cls → (∀ x y n, i ≠ .drw x y n) →
    t.fb = s.fb ∧ t.dirty = s.dirty

/-- R29, R30, R34 to R36: no instruction writes KEY, END, LAST_TICK, the configuration or a port; only LD DT and LD ST write
a timer; STATUS changes only to a fatal error at this instruction. -/
def Obligations.ControlStateFrame : Prop :=
  ∀ (i : Instr) (s t : State), exec i s = .next t →
    t.cfg = s.cfg ∧ t.key = s.key ∧ t.endAddr = s.endAddr ∧ t.lastTick = s.lastTick ∧ t.now = s.now ∧
    t.rand = s.rand ∧ t.out = s.out ∧ t.inputIndex = s.inputIndex ∧
    ((∀ x, i ≠ .ldDtVx x) → t.dt = s.dt) ∧ ((∀ x, i ≠ .ldStVx x) → t.st = s.st) ∧
    (t.status = s.status ∨ ∃ code, t = faultedAt s code s.fetch)

/-- R36: no step changes END; nor does one change the configuration (the model's choice, log entry 1). -/
def Obligations.EndAndConfigurationFixed : Prop :=
  ∀ s t : State, step s = .next t → t.endAddr = s.endAddr ∧ t.cfg = s.cfg

/-- R25: where each instruction leaves pc, once, when it raises no fatal error; with one, pc is unchanged. -/
def Obligations.ProgramCounterWrites : Prop :=
  ∀ (i : Instr) (s t : State), s.status = .run → exec i s = .next t →
    (t.status = .run → t.pc = nextPc s i) ∧ (t.status ≠ .run → t.pc = s.pc)

/-- R132, R133, R270: the random byte reaches RND alone, host time reaches no instruction, and the keys reach SKP, SKNP and
LD Vx,K alone: with another value of the input every other instruction does the same. -/
def Obligations.HostInputsReachOnlyTheirInstructions : Prop :=
  ∀ (i : Instr) (s t : State), exec i s = .next t →
    (∀ b, (∀ x kk, i ≠ .rnd x kk) → exec i { s with rand := b } = .next { t with rand := b }) ∧
    (∀ m, exec i { s with now := m } = .next { t with now := m }) ∧
    (∀ keys, (∀ x, i ≠ .skp x) → (∀ x, i ≠ .sknp x) → (∀ x, i ≠ .ldVxK x) →
      exec i { s with key := keys } = .next { t with key := keys })

/-! ## Memory -/

/-- R68: a read gives the last byte written, and a write changes no other byte. -/
def Obligations.ReadAfterWrite : Prop :=
  ∀ (s : State) (a c : Nat) (b : Byte), Memory.wf s.cfg s.mem = true → a < s.cfg.memSize →
    (s.memWrite a b).memRead a = b ∧ (c ≠ a → (s.memWrite a b).memRead c = s.memRead c) ∧
    Memory.wf s.cfg (s.memWrite a b).mem = true

/-- R71: a fetch after a store sees the stored byte, as its high or its low byte.
This is the spec's decision D4. -/
def Obligations.FetchSeesStores : Prop :=
  ∀ (s : State) (a : Nat) (b : Byte), Memory.wf s.cfg s.mem = true → a + 1 < s.cfg.memSize →
    (s.memWrite a b).fetchAt a = some (wordOfBytes b (s.memRead (a + 1))) ∧
    (s.memWrite (a + 1) b).fetchAt a = some (wordOfBytes (s.memRead a) b)

/-- Memories in canonical form that read alike below MEM_SIZE are equal data.
The form is the model's own (log entry 7). -/
def Obligations.CanonicalMemoryIsExtensional : Prop :=
  ∀ (cfg : Cfg) (m m' : Memory), Memory.wf cfg m = true → Memory.wf cfg m' = true →
    (∀ a, a < cfg.memSize → Memory.read cfg m a = Memory.read cfg m' a) → m = m'

/-! ## Control transfer -/

/-- R141: JP nnn; a jump to itself changes nothing. -/
def Obligations.JumpSetsPc : Prop :=
  encodedAs 0x1000 0xF000 0xF000 (fun f => .jp f.nnn) ∧
  ∀ (s : State) (nnn : Addr12), ∃ p : Word, p.toNat = nnn.toNat ∧
    exec (.jp nnn) s = .next { s with pc := p } ∧ haltsIfPastEnd s p ∧
    (s.pc.toNat = nnn.toNat → exec (.jp nnn) s = .next s)

/-- R147: JP V0, nnn; that the sum is not masked to 12 bits is the spec's decision D6. -/
def Obligations.JumpIndexedAddsV0 : Prop :=
  encodedAs 0xB000 0xF000 0xF000 (fun f => .jpV0 f.nnn) ∧
  ∀ (s : State) (nnn : Addr12), ∃ p : Word, p.toNat = nnn.toNat + (s.readV 0x0).toNat ∧
    exec (.jpV0 nnn) s = .next { s with pc := p } ∧ haltsIfPastEnd s p ∧
    (s.endAddr.toNat ≤ 0x1000 → 0x1000 ≤ p.toNat → s.endAddr.toNat ≤ p.toNat)

/-- R142: CALL nnn pushes its own address; on a full stack it raises StackOverflow and changes nothing else. -/
def Obligations.CallPushesOwnAddress : Prop :=
  encodedAs 0x2000 0xF000 0xF000 (fun f => .call f.nnn) ∧
  ∀ (s : State) (nnn : Addr12),
    (∀ h : s.sp.val < 16, ∃ (p : Word) (n : Fin 17), p.toNat = nnn.toNat ∧ n.val = s.sp.val + 1 ∧
      exec (.call nnn) s = .next { s with stack := s.stack.set s.sp.val s.pc h, sp := n, pc := p }) ∧
    (s.sp.val = 16 → exec (.call nnn) s = .next (faultedAt s .stackOverflow s.fetch))

/-- R140: RET pops and resumes after the CALL; on an empty stack it raises StackUnderflow and changes nothing else. "The
result is at most 0x1001" is a sentence the spec derives from R142 and R124; here it is stated under the model's own
invariant `State.Inv`. -/
def Obligations.ReturnResumesAfterCall : Prop :=
  encodedAs 0x00EE 0xF0FF 0xFFFF (fun _ => .ret) ∧
  ∀ s : State,
    (∀ h : 0 < s.sp.val, ∃ (n : Fin 17), n.val = s.sp.val - 1 ∧
      exec .ret s = .next { s with sp := n, pc := s.stack[s.sp.val - 1]'(by omega) + 2 } ∧
      haltsIfPastEnd s (s.stack[s.sp.val - 1]'(by omega) + 2) ∧
      (s.Inv → (s.stack[s.sp.val - 1]'(by omega) + 2).toNat ≤ 0x1001)) ∧
    (s.sp.val = 0 → exec .ret s = .next (faultedAt s .stackUnderflow s.fetch))

/-- R28, R140, R142: a RET with the stack a CALL left returns to the instruction after that CALL, with SP as before it. -/
def Obligations.CallThenReturn : Prop :=
  ∀ (s t u v : State) (nnn : Addr12), s.sp.val < 16 → exec (.call nnn) s = .next t → u.stack = t.stack → u.sp = t.sp →
    exec .ret u = .next v → v.pc = s.pc + 2 ∧ v.sp = s.sp

/-- R143, R144: the skips that compare with an immediate. -/
def Obligations.SkipsOnImmediate : Prop :=
  encodedAs 0x3000 0xF000 0xF000 (fun f => .seImm f.x f.kk) ∧
  encodedAs 0x4000 0xF000 0xF000 (fun f => .sneImm f.x f.kk) ∧
  ∀ (s : State) (x : Nibble) (kk : Byte),
    exec (.seImm x kk) s = .next { s with pc := if s.readV x = kk then s.pc + 4 else s.pc + 2 } ∧
    exec (.sneImm x kk) s = .next { s with pc := if s.readV x = kk then s.pc + 2 else s.pc + 4 } ∧
    haltsIfPastEnd s (s.pc + 4)

/-- R145, R146: the skips that compare two registers, with their illegal neighbours. -/
def Obligations.SkipsOnRegisters : Prop :=
  encodedAs 0x5000 0xF000 0xF00F (fun f => .seReg f.x f.y) ∧
  encodedAs 0x9000 0xF00F 0xF00F (fun f => .sneReg f.x f.y) ∧
  (∀ w : Word, (Fields.ofWord w).c = 0x5 → (Fields.ofWord w).n ≠ 0 → decodeWord true w = none) ∧
  (∀ (strict : Bool) (w : Word), (Fields.ofWord w).c = 0x9 → (Fields.ofWord w).n ≠ 0 → decodeWord strict w = none) ∧
  ∀ (s : State) (x y : Nibble),
    exec (.seReg x y) s = .next { s with pc := if s.readV x = s.readV y then s.pc + 4 else s.pc + 2 } ∧
    exec (.sneReg x y) s = .next { s with pc := if s.readV x = s.readV y then s.pc + 2 else s.pc + 4 } ∧
    exec (.seReg x x) s = .next { s with pc := s.pc + 4 } ∧
    exec (.sneReg x x) s = .next { s with pc := s.pc + 2 }

/-! ## Register loads, arithmetic and logic -/

/-- R160, R162: LD Vx, kk and LD Vx, Vy. -/
def Obligations.RegisterLoads : Prop :=
  encodedAs 0x6000 0xF000 0xF000 (fun f => .ldImm f.x f.kk) ∧
  encodedAs 0x8000 0xF00F 0xF00F (fun f => .ldReg f.x f.y) ∧
  ∀ (s : State) (x y : Nibble) (kk : Byte),
    (∃ t, exec (.ldImm x kk) s = .next t ∧ regsAndPc s t (s.pc + 2) ∧
      ∀ k, t.readV k = if k = x then kk else s.readV k) ∧
    (∃ t, exec (.ldReg x y) s = .next t ∧ regsAndPc s t (s.pc + 2) ∧
      ∀ k, t.readV k = if k = x then s.readV y else s.readV k)

/-- R161: ADD Vx, kk wraps and writes no flag. -/
def Obligations.AddImmediate : Prop :=
  encodedAs 0x7000 0xF000 0xF000 (fun f => .addImm f.x f.kk) ∧
  ∀ (s : State) (x : Nibble) (kk : Byte),
    ∃ t, exec (.addImm x kk) s = .next t ∧ regsAndPc s t (s.pc + 2) ∧
      ∀ k, (t.readV k).toNat = if k = x then ((s.readV x).toNat + kk.toNat) % 256 else (s.readV k).toNat

/-- R163, R164, R165: OR, AND and XOR, bit by bit; VF is written only as the destination. -/
def Obligations.LogicOperations : Prop :=
  encodedAs 0x8001 0xF00F 0xF00F (fun f => .orReg f.x f.y) ∧
  encodedAs 0x8002 0xF00F 0xF00F (fun f => .andReg f.x f.y) ∧
  encodedAs 0x8003 0xF00F 0xF00F (fun f => .xorReg f.x f.y) ∧
  ∀ (s : State) (x y : Nibble),
    (∃ t, exec (.orReg x y) s = .next t ∧ regsAndPc s t (s.pc + 2) ∧ ∀ k j, (t.readV k).getLsbD j =
      if k = x then ((s.readV x).getLsbD j || (s.readV y).getLsbD j) else (s.readV k).getLsbD j) ∧
    (∃ t, exec (.andReg x y) s = .next t ∧ regsAndPc s t (s.pc + 2) ∧ ∀ k j, (t.readV k).getLsbD j =
      if k = x then ((s.readV x).getLsbD j && (s.readV y).getLsbD j) else (s.readV k).getLsbD j) ∧
    (∃ t, exec (.xorReg x y) s = .next t ∧ regsAndPc s t (s.pc + 2) ∧ ∀ k j, (t.readV k).getLsbD j =
      if k = x then ((s.readV x).getLsbD j ^^ (s.readV y).getLsbD j) else (s.readV k).getLsbD j)

/-- R166: ADD Vx, Vy: the wrapped sum, then the carry to VF. -/
def Obligations.AddWithCarry : Prop :=
  encodedAs 0x8004 0xF00F 0xF00F (fun f => .addReg f.x f.y) ∧
  ∀ (s : State) (x y : Nibble),
    ∃ t, exec (.addReg x y) s = .next t ∧ regsAndPc s t (s.pc + 2) ∧
      ∀ k, (t.readV k).toNat =
        if k = 0xF then (if (s.readV x).toNat + (s.readV y).toNat > 255 then 1 else 0)
        else if k = x then ((s.readV x).toNat + (s.readV y).toNat) % 256
        else (s.readV k).toNat

/-- R167, R169: SUB and SUBN: the wrapped difference, then the borrow indicator of SUB_FLAG_MODE to VF. -/
def Obligations.SubtractWithBorrow : Prop :=
  encodedAs 0x8005 0xF00F 0xF00F (fun f => .sub f.x f.y) ∧
  encodedAs 0x8007 0xF00F 0xF00F (fun f => .subn f.x f.y) ∧
  ∀ (s : State) (x y : Nibble),
    (∃ t, exec (.sub x y) s = .next t ∧ regsAndPc s t (s.pc + 2) ∧
      ∀ k, (t.readV k).toNat =
        if k = 0xF then
          (match s.cfg.subFlagMode with
          | .notBorrow => if (s.readV x).toNat ≥ (s.readV y).toNat then 1 else 0
          | .borrow => if (s.readV x).toNat < (s.readV y).toNat then 1 else 0)
        else if k = x then ((s.readV x).toNat + 256 - (s.readV y).toNat) % 256
        else (s.readV k).toNat) ∧
    (∃ t, exec (.subn x y) s = .next t ∧ regsAndPc s t (s.pc + 2) ∧
      ∀ k, (t.readV k).toNat =
        if k = 0xF then
          (match s.cfg.subFlagMode with
          | .notBorrow => if (s.readV y).toNat ≥ (s.readV x).toNat then 1 else 0
          | .borrow => if (s.readV y).toNat < (s.readV x).toNat then 1 else 0)
        else if k = x then ((s.readV y).toNat + 256 - (s.readV x).toNat) % 256
        else (s.readV k).toNat)

/-- R168, R170: SHR and SHL by one bit, of Vx or Vy by SHIFT_SOURCE, then the shifted-out bit to VF. -/
def Obligations.ShiftsByOne : Prop :=
  encodedAs 0x8006 0xF00F 0xF00F (fun f => .shr f.x f.y) ∧
  encodedAs 0x800E 0xF00F 0xF00F (fun f => .shl f.x f.y) ∧
  ∀ (s : State) (x y : Nibble) (a : Nat),
    a = (match s.cfg.shiftSource with
      | .vx => (s.readV x).toNat
      | .vy => (s.readV y).toNat) →
    (∃ t, exec (.shr x y) s = .next t ∧ regsAndPc s t (s.pc + 2) ∧
      ∀ k, (t.readV k).toNat = if k = 0xF then a % 2 else if k = x then a / 2 else (s.readV k).toNat) ∧
    (∃ t, exec (.shl x y) s = .next t ∧ regsAndPc s t (s.pc + 2) ∧
      ∀ k, (t.readV k).toNat = if k = 0xF then a / 128 else if k = x then a * 2 % 256 else (s.readV k).toNat)

/-- R171: RND Vx, kk for every random byte: a bit of the result is the random bit where kk has a 1, else 0. -/
def Obligations.RandomMasked : Prop :=
  encodedAs 0xC000 0xF000 0xF000 (fun f => .rnd f.x f.kk) ∧
  ∀ (s : State) (x : Nibble) (kk : Byte),
    ∃ t, exec (.rnd x kk) s = .next t ∧ regsAndPc s t (s.pc + 2) ∧
      ∀ k j, (t.readV k).getLsbD j =
        if k = x then (s.rand.getLsbD j && kk.getLsbD j) else (s.readV k).getLsbD j

/-! ## Frame buffer -/

/-- R190: CLS turns every pixel off and sets DIRTY. -/
def Obligations.ClearScreen : Prop :=
  encodedAs 0x00E0 0xF0FF 0xFFFF (fun _ => .cls) ∧
  ∀ s : State, ∃ t, exec .cls s = .next t ∧ t = { s with fb := t.fb, dirty := true, pc := s.pc + 2 } ∧
    ∀ r c, FrameBuffer.pixel t.fb r c = false

/-- R191: DRW XORs the sprite's bits onto the frame buffer with wrap-around on both axes, sets VF to the collision and
DIRTY, and changes nothing else; if the sprite leaves memory it raises MemoryOutOfRange and changes nothing. That bit 7 is
the leftmost column (also general knowledge) and what n = 0 does are the spec's decision D22; that no pixel is visited twice,
so that one XOR for each pixel says it all, the spec derives from the rule. -/
def Obligations.DrawSprite : Prop :=
  encodedAs 0xD000 0xF000 0xF000 (fun f => .drw f.x f.y f.n) ∧
  ∀ (s : State) (x y n : Nibble),
    (n = 0 ∨ s.i.toNat + n.toNat - 1 < s.cfg.memSize →
      ∃ t, exec (.drw x y n) s = .next t ∧
        t = { s with v := t.v, fb := t.fb, dirty := true, pc := s.pc + 2 } ∧
        (∀ r c, r < 32 → c < 64 →
          FrameBuffer.pixel t.fb r c = (FrameBuffer.pixel s.fb r c ^^ spriteBit s x y n r c)) ∧
        (∀ k, k ≠ 0xF → t.readV k = s.readV k) ∧
        ((t.readV 0xF = 1 ∧ ∃ r c, r < 32 ∧ c < 64 ∧ FrameBuffer.pixel s.fb r c = true ∧
            spriteBit s x y n r c = true) ∨
         (t.readV 0xF = 0 ∧ ∀ r c, r < 32 → c < 64 → FrameBuffer.pixel s.fb r c = true →
            spriteBit s x y n r c = false))) ∧
    (n ≠ 0 → s.cfg.memSize ≤ s.i.toNat + n.toNat - 1 →
      exec (.drw x y n) s = .next (faultedAt s .memoryOutOfRange s.fetch))

/-! ## Key pad and timers -/

/-- R210, R211: SKP and SKNP test the key whose index is the value of Vx; that an index above 15 is fatal is the spec's
decision D18. -/
def Obligations.SkipsOnKey : Prop :=
  encodedAs 0xE09E 0xF0FF 0xF0FF (fun f => .skp f.x) ∧
  encodedAs 0xE0A1 0xF0FF 0xF0FF (fun f => .sknp f.x) ∧
  ∀ (s : State) (x : Nibble),
    (∀ h : (s.readV x).toNat < 16,
      exec (.skp x) s = .next { s with pc := if s.key[(s.readV x).toNat]'h = true then s.pc + 4 else s.pc + 2 } ∧
      exec (.sknp x) s = .next { s with pc := if s.key[(s.readV x).toNat]'h = true then s.pc + 2 else s.pc + 4 }) ∧
    (16 ≤ (s.readV x).toNat →
      exec (.skp x) s = .next (faultedAt s .keyIndexOutOfRange s.fetch) ∧
      exec (.sknp x) s = .next (faultedAt s .keyIndexOutOfRange s.fetch))

/-- R212, R214, R215: the moves between Vx and the timers, and what the step's own tick makes of them: LD Vx,DT reads DT
before it, and a timer just set counts in it. -/
def Obligations.TimerMoves : Prop :=
  encodedAs 0xF007 0xF0FF 0xF0FF (fun f => .ldVxDt f.x) ∧
  encodedAs 0xF015 0xF0FF 0xF0FF (fun f => .ldDtVx f.x) ∧
  encodedAs 0xF018 0xF0FF 0xF0FF (fun f => .ldStVx f.x) ∧
  ∀ (s : State) (x : Nibble),
    (∃ t, exec (.ldVxDt x) s = .next t ∧ regsAndPc s t (s.pc + 2) ∧
      ∀ k, t.readV k = if k = x then s.dt else s.readV k) ∧
    exec (.ldDtVx x) s = .next { s with dt := s.readV x, pc := s.pc + 2 } ∧
    exec (.ldStVx x) s = .next { s with st := s.readV x, pc := s.pc + 2 } ∧
    (runsNext s (.ldVxDt x) → ∃ u, step s = .next u ∧ u.readV x = s.dt) ∧
    (runsNext s (.ldDtVx x) → ∃ u, step s = .next u ∧
      (tickCondition s → u.dt.toNat = (s.readV x).toNat - 1 ∧ u.lastTick = s.now) ∧
      (¬tickCondition s → u.dt = s.readV x ∧ u.lastTick = s.lastTick)) ∧
    (runsNext s (.ldStVx x) → ∃ u, step s = .next u ∧ u.out.soundActive = decide (0 < u.st.toNat) ∧
      (tickCondition s → u.st.toNat = (s.readV x).toNat - 1 ∧ u.lastTick = s.now) ∧
      (¬tickCondition s → u.st = s.readV x ∧ u.lastTick = s.lastTick))

/-- R213: LD Vx, K holds pc while no key is pressed, its step completing with the tick, and else stores the lowest pressed
key and advances. -/
def Obligations.WaitForKey : Prop :=
  encodedAs 0xF00A 0xF0FF 0xF0FF (fun f => .ldVxK f.x) ∧
  ∀ (s : State) (x : Nibble),
    ((∀ (k : Nat) (h : k < 16), (s.key[k]'h) = false) → exec (.ldVxK x) s = .next s ∧
      (runsNext s (.ldVxK x) → ∃ u, step s = .next u ∧ u.status = .run ∧ u.out.status = .cont ∧ u.pc = s.pc ∧
        u.dt = s.tick.dt ∧ u.st = s.tick.st ∧ u.lastTick = s.tick.lastTick)) ∧
    ∀ (k : Nat) (h : k < 16), (s.key[k]'h) = true →
      (∀ (j : Nat) (hj : j < 16), j < k → (s.key[j]'hj) = false) →
      ∃ t, exec (.ldVxK x) s = .next t ∧ regsAndPc s t (s.pc + 2) ∧
        ∀ r, (t.readV r).toNat = if r = x then k else (s.readV r).toNat

/-! ## Address register and memory -/

/-- R230: LD I, nnn. -/
def Obligations.LoadAddress : Prop :=
  encodedAs 0xA000 0xF000 0xF000 (fun f => .ldI f.nnn) ∧
  ∀ (s : State) (nnn : Addr12), ∃ a : Word, a.toNat = nnn.toNat ∧
    exec (.ldI nnn) s = .next { s with i := a, pc := s.pc + 2 }

/-- R231: ADD I, Vx wraps at 16 bits and writes the overflow to VF when ADD_I_SETS_VF. -/
def Obligations.AddToAddress : Prop :=
  encodedAs 0xF01E 0xF0FF 0xF0FF (fun f => .addI f.x) ∧
  ∀ (s : State) (x : Nibble),
    ∃ t, exec (.addI x) s = .next t ∧ t = { s with v := t.v, i := t.i, pc := s.pc + 2 } ∧
      t.i.toNat = (s.i.toNat + (s.readV x).toNat) % 65536 ∧
      ∀ k, (t.readV k).toNat =
        if k = 0xF ∧ s.cfg.addISetsVf = true then
          (if s.i.toNat + (s.readV x).toNat > s.cfg.addIOverflowLimit then 1 else 0)
        else (s.readV k).toNat

/-- R232: LD F, Vx points I at the glyph of the digit, in every configuration whose glyph addresses are 16-bit values. -/
def Obligations.LoadGlyphAddress : Prop :=
  encodedAs 0xF029 0xF0FF 0xF0FF (fun f => .ldF f.x) ∧
  ∀ (s : State) (x : Nibble),
    ∃ a : Word, exec (.ldF x) s = .next { s with i := a, pc := s.pc + 2 } ∧
      (s.cfg.fontAddressable = true →
        a.toNat = s.cfg.fontBase + (match s.cfg.fontDigitMode with
          | .lowNibble => (s.readV x).toNat % 16
          | .fullByte => (s.readV x).toNat) * s.cfg.fontGlyphSize)

/-- R233: LD B, Vx stores the three decimal digits at I, I+1 and I+2, and changes no other byte; out of memory it raises
MemoryOutOfRange and stores nothing. -/
def Obligations.StoreBcd : Prop :=
  encodedAs 0xF033 0xF0FF 0xF0FF (fun f => .ldB f.x) ∧
  ∀ (s : State) (x : Nibble), Memory.wf s.cfg s.mem = true →
    (s.i.toNat + 2 < s.cfg.memSize → ∃ t, exec (.ldB x) s = .next t ∧
      t = { s with mem := t.mem, pc := s.pc + 2 } ∧
      ∀ a, (t.memRead a).toNat =
        if a = s.i.toNat then (s.readV x).toNat / 100
        else if a = s.i.toNat + 1 then (s.readV x).toNat / 10 % 10
        else if a = s.i.toNat + 2 then (s.readV x).toNat % 10
        else (s.memRead a).toNat) ∧
    (s.cfg.memSize ≤ s.i.toNat + 2 → exec (.ldB x) s = .next (faultedAt s .memoryOutOfRange s.fetch))

/-- R234: LD [I], Vx stores V0 to Vx at I upwards and changes no other byte; I as LDST_INCREMENTS_I says; out of memory it
raises MemoryOutOfRange and stores nothing. -/
def Obligations.StoreRegisters : Prop :=
  encodedAs 0xF055 0xF0FF 0xF0FF (fun f => .stRegs f.x) ∧
  ∀ (s : State) (x : Nibble), Memory.wf s.cfg s.mem = true →
    (s.i.toNat + x.toNat < s.cfg.memSize → ∃ t, exec (.stRegs x) s = .next t ∧
      t = { s with mem := t.mem, i := t.i, pc := s.pc + 2 } ∧
      t.i.toNat = (if s.cfg.ldstIncrementsI = true then (s.i.toNat + x.toNat + 1) % 65536 else s.i.toNat) ∧
      (∀ k : Nibble, k.toNat ≤ x.toNat → t.memRead (s.i.toNat + k.toNat) = s.readV k) ∧
      ∀ a, ¬(s.i.toNat ≤ a ∧ a < s.i.toNat + x.toNat + 1) → t.memRead a = s.memRead a) ∧
    (s.cfg.memSize ≤ s.i.toNat + x.toNat → exec (.stRegs x) s = .next (faultedAt s .memoryOutOfRange s.fetch))

/-- R235: LD Vx, [I] loads V0 to Vx from I upwards and no other register; I as LDST_INCREMENTS_I says; out of memory it
raises MemoryOutOfRange and loads nothing. -/
def Obligations.LoadRegisters : Prop :=
  encodedAs 0xF065 0xF0FF 0xF0FF (fun f => .ldRegs f.x) ∧
  ∀ (s : State) (x : Nibble),
    (s.i.toNat + x.toNat < s.cfg.memSize → ∃ t, exec (.ldRegs x) s = .next t ∧
      t = { s with v := t.v, i := t.i, pc := s.pc + 2 } ∧
      t.i.toNat = (if s.cfg.ldstIncrementsI = true then (s.i.toNat + x.toNat + 1) % 65536 else s.i.toNat) ∧
      ∀ k, t.readV k = if k.toNat ≤ x.toNat then s.memRead (s.i.toNat + k.toNat) else s.readV k) ∧
    (s.cfg.memSize ≤ s.i.toNat + x.toNat → exec (.ldRegs x) s = .next (faultedAt s .memoryOutOfRange s.fetch))
end

