-- ==== Sys2Proof/Laws/Config.lean ====
section
/-! SUPPORT. The parameters of 00_scope.md R4 that are fixed: the value each has, and that the state has their shape. -/

namespace Sys2Proof

@[simp] theorem Cfg.numRegs_val (c : Cfg) : c.numRegs.val = 16 := c.numRegs.property
@[simp] theorem Cfg.regWidth_val (c : Cfg) : c.regWidth.val = 8 := c.regWidth.property
@[simp] theorem Cfg.iWidth_val (c : Cfg) : c.iWidth.val = 16 := c.iWidth.property
@[simp] theorem Cfg.pcWidth_val (c : Cfg) : c.pcWidth.val = 16 := c.pcWidth.property
@[simp] theorem Cfg.stackDepth_val (c : Cfg) : c.stackDepth.val = 16 := c.stackDepth.property
@[simp] theorem Cfg.fbWidth_val (c : Cfg) : c.fbWidth.val = 64 := c.fbWidth.property
@[simp] theorem Cfg.fbHeight_val (c : Cfg) : c.fbHeight.val = 32 := c.fbHeight.property
@[simp] theorem Cfg.numKeys_val (c : Cfg) : c.numKeys.val = 16 := c.numKeys.property

/-- The state has the shape its configuration names: as many registers, stack entries, rows, columns and keys, and values of
the named widths (R4, R20, R23, R24, R27, R32, R34). -/
theorem Machine.State.shape (s : Machine.State) :
    s.v.size = s.cfg.numRegs.val ∧ (∀ (k : Nat) (h : k < 16), (s.v[k]'h).toNat < 2 ^ s.cfg.regWidth.val) ∧
    s.i.toNat < 2 ^ s.cfg.iWidth.val ∧ s.pc.toNat < 2 ^ s.cfg.pcWidth.val ∧
    s.stack.size = s.cfg.stackDepth.val ∧ s.sp.val ≤ s.cfg.stackDepth.val ∧
    s.fb.size = s.cfg.fbHeight.val ∧ (∀ (r : Nat) (h : r < 32), (s.fb[r]'h).size = s.cfg.fbWidth.val) ∧
    s.key.size = s.cfg.numKeys.val := by
  have hv := fun (k : Nat) (h : k < 16) => (s.v[k]'h).isLt
  have hsp := s.sp.isLt
  refine ⟨?_, ?_, ?_, ?_, ?_, ?_, ?_, ?_, ?_⟩ <;> simp
  · exact hv
  · exact s.i.isLt
  · exact s.pc.isLt
  · omega

end Sys2Proof
end

