-- ==== Sys2Proof/Laws/State.lean ====
section
/-! SUPPORT. One lemma for each field of the state under each update, true by rfl, so that no later proof unfolds a record
update. A name says the update and then the field. -/

namespace Sys2Proof.Machine

/-! ## writeV -/

@[simp] theorem State.writeV_cfg (s : State) (x : Nibble) (b : Byte) : (s.writeV x b).cfg = s.cfg := rfl
@[simp] theorem State.writeV_v (s : State) (x : Nibble) (b : Byte) : (s.writeV x b).v = s.v.set x.toNat b x.isLt := rfl
@[simp] theorem State.writeV_i (s : State) (x : Nibble) (b : Byte) : (s.writeV x b).i = s.i := rfl
@[simp] theorem State.writeV_pc (s : State) (x : Nibble) (b : Byte) : (s.writeV x b).pc = s.pc := rfl
@[simp] theorem State.writeV_sp (s : State) (x : Nibble) (b : Byte) : (s.writeV x b).sp = s.sp := rfl
@[simp] theorem State.writeV_stack (s : State) (x : Nibble) (b : Byte) : (s.writeV x b).stack = s.stack := rfl
@[simp] theorem State.writeV_dt (s : State) (x : Nibble) (b : Byte) : (s.writeV x b).dt = s.dt := rfl
@[simp] theorem State.writeV_st (s : State) (x : Nibble) (b : Byte) : (s.writeV x b).st = s.st := rfl
@[simp] theorem State.writeV_lastTick (s : State) (x : Nibble) (b : Byte) : (s.writeV x b).lastTick = s.lastTick := rfl
@[simp] theorem State.writeV_endAddr (s : State) (x : Nibble) (b : Byte) : (s.writeV x b).endAddr = s.endAddr := rfl
@[simp] theorem State.writeV_status (s : State) (x : Nibble) (b : Byte) : (s.writeV x b).status = s.status := rfl
@[simp] theorem State.writeV_mem (s : State) (x : Nibble) (b : Byte) : (s.writeV x b).mem = s.mem := rfl
@[simp] theorem State.writeV_fb (s : State) (x : Nibble) (b : Byte) : (s.writeV x b).fb = s.fb := rfl
@[simp] theorem State.writeV_dirty (s : State) (x : Nibble) (b : Byte) : (s.writeV x b).dirty = s.dirty := rfl
@[simp] theorem State.writeV_key (s : State) (x : Nibble) (b : Byte) : (s.writeV x b).key = s.key := rfl
@[simp] theorem State.writeV_now (s : State) (x : Nibble) (b : Byte) : (s.writeV x b).now = s.now := rfl
@[simp] theorem State.writeV_rand (s : State) (x : Nibble) (b : Byte) : (s.writeV x b).rand = s.rand := rfl
@[simp] theorem State.writeV_out (s : State) (x : Nibble) (b : Byte) : (s.writeV x b).out = s.out := rfl
@[simp] theorem State.writeV_inputIndex (s : State) (x : Nibble) (b : Byte) : (s.writeV x b).inputIndex = s.inputIndex := rfl

/-! ## setFlag -/

@[simp] theorem State.setFlag_cfg (s : State) (f : Bool) : (s.setFlag f).cfg = s.cfg := rfl
@[simp] theorem State.setFlag_v (s : State) (f : Bool) : (s.setFlag f).v = s.v.set 15 (bit f) := rfl
@[simp] theorem State.setFlag_i (s : State) (f : Bool) : (s.setFlag f).i = s.i := rfl
@[simp] theorem State.setFlag_pc (s : State) (f : Bool) : (s.setFlag f).pc = s.pc := rfl
@[simp] theorem State.setFlag_sp (s : State) (f : Bool) : (s.setFlag f).sp = s.sp := rfl
@[simp] theorem State.setFlag_stack (s : State) (f : Bool) : (s.setFlag f).stack = s.stack := rfl
@[simp] theorem State.setFlag_dt (s : State) (f : Bool) : (s.setFlag f).dt = s.dt := rfl
@[simp] theorem State.setFlag_st (s : State) (f : Bool) : (s.setFlag f).st = s.st := rfl
@[simp] theorem State.setFlag_lastTick (s : State) (f : Bool) : (s.setFlag f).lastTick = s.lastTick := rfl
@[simp] theorem State.setFlag_endAddr (s : State) (f : Bool) : (s.setFlag f).endAddr = s.endAddr := rfl
@[simp] theorem State.setFlag_status (s : State) (f : Bool) : (s.setFlag f).status = s.status := rfl
@[simp] theorem State.setFlag_mem (s : State) (f : Bool) : (s.setFlag f).mem = s.mem := rfl
@[simp] theorem State.setFlag_fb (s : State) (f : Bool) : (s.setFlag f).fb = s.fb := rfl
@[simp] theorem State.setFlag_dirty (s : State) (f : Bool) : (s.setFlag f).dirty = s.dirty := rfl
@[simp] theorem State.setFlag_key (s : State) (f : Bool) : (s.setFlag f).key = s.key := rfl
@[simp] theorem State.setFlag_now (s : State) (f : Bool) : (s.setFlag f).now = s.now := rfl
@[simp] theorem State.setFlag_rand (s : State) (f : Bool) : (s.setFlag f).rand = s.rand := rfl
@[simp] theorem State.setFlag_out (s : State) (f : Bool) : (s.setFlag f).out = s.out := rfl
@[simp] theorem State.setFlag_inputIndex (s : State) (f : Bool) : (s.setFlag f).inputIndex = s.inputIndex := rfl

/-! ## setI -/

@[simp] theorem State.setI_cfg (s : State) (a : Word) : (s.setI a).cfg = s.cfg := rfl
@[simp] theorem State.setI_v (s : State) (a : Word) : (s.setI a).v = s.v := rfl
@[simp] theorem State.setI_i (s : State) (a : Word) : (s.setI a).i = a := rfl
@[simp] theorem State.setI_pc (s : State) (a : Word) : (s.setI a).pc = s.pc := rfl
@[simp] theorem State.setI_sp (s : State) (a : Word) : (s.setI a).sp = s.sp := rfl
@[simp] theorem State.setI_stack (s : State) (a : Word) : (s.setI a).stack = s.stack := rfl
@[simp] theorem State.setI_dt (s : State) (a : Word) : (s.setI a).dt = s.dt := rfl
@[simp] theorem State.setI_st (s : State) (a : Word) : (s.setI a).st = s.st := rfl
@[simp] theorem State.setI_lastTick (s : State) (a : Word) : (s.setI a).lastTick = s.lastTick := rfl
@[simp] theorem State.setI_endAddr (s : State) (a : Word) : (s.setI a).endAddr = s.endAddr := rfl
@[simp] theorem State.setI_status (s : State) (a : Word) : (s.setI a).status = s.status := rfl
@[simp] theorem State.setI_mem (s : State) (a : Word) : (s.setI a).mem = s.mem := rfl
@[simp] theorem State.setI_fb (s : State) (a : Word) : (s.setI a).fb = s.fb := rfl
@[simp] theorem State.setI_dirty (s : State) (a : Word) : (s.setI a).dirty = s.dirty := rfl
@[simp] theorem State.setI_key (s : State) (a : Word) : (s.setI a).key = s.key := rfl
@[simp] theorem State.setI_now (s : State) (a : Word) : (s.setI a).now = s.now := rfl
@[simp] theorem State.setI_rand (s : State) (a : Word) : (s.setI a).rand = s.rand := rfl
@[simp] theorem State.setI_out (s : State) (a : Word) : (s.setI a).out = s.out := rfl
@[simp] theorem State.setI_inputIndex (s : State) (a : Word) : (s.setI a).inputIndex = s.inputIndex := rfl

/-! ## setPc -/

@[simp] theorem State.setPc_cfg (s : State) (a : Word) : (s.setPc a).cfg = s.cfg := rfl
@[simp] theorem State.setPc_v (s : State) (a : Word) : (s.setPc a).v = s.v := rfl
@[simp] theorem State.setPc_i (s : State) (a : Word) : (s.setPc a).i = s.i := rfl
@[simp] theorem State.setPc_pc (s : State) (a : Word) : (s.setPc a).pc = a := rfl
@[simp] theorem State.setPc_sp (s : State) (a : Word) : (s.setPc a).sp = s.sp := rfl
@[simp] theorem State.setPc_stack (s : State) (a : Word) : (s.setPc a).stack = s.stack := rfl
@[simp] theorem State.setPc_dt (s : State) (a : Word) : (s.setPc a).dt = s.dt := rfl
@[simp] theorem State.setPc_st (s : State) (a : Word) : (s.setPc a).st = s.st := rfl
@[simp] theorem State.setPc_lastTick (s : State) (a : Word) : (s.setPc a).lastTick = s.lastTick := rfl
@[simp] theorem State.setPc_endAddr (s : State) (a : Word) : (s.setPc a).endAddr = s.endAddr := rfl
@[simp] theorem State.setPc_status (s : State) (a : Word) : (s.setPc a).status = s.status := rfl
@[simp] theorem State.setPc_mem (s : State) (a : Word) : (s.setPc a).mem = s.mem := rfl
@[simp] theorem State.setPc_fb (s : State) (a : Word) : (s.setPc a).fb = s.fb := rfl
@[simp] theorem State.setPc_dirty (s : State) (a : Word) : (s.setPc a).dirty = s.dirty := rfl
@[simp] theorem State.setPc_key (s : State) (a : Word) : (s.setPc a).key = s.key := rfl
@[simp] theorem State.setPc_now (s : State) (a : Word) : (s.setPc a).now = s.now := rfl
@[simp] theorem State.setPc_rand (s : State) (a : Word) : (s.setPc a).rand = s.rand := rfl
@[simp] theorem State.setPc_out (s : State) (a : Word) : (s.setPc a).out = s.out := rfl
@[simp] theorem State.setPc_inputIndex (s : State) (a : Word) : (s.setPc a).inputIndex = s.inputIndex := rfl

/-! ## advance -/

@[simp] theorem State.advance_cfg (s : State) : (s.advance).cfg = s.cfg := rfl
@[simp] theorem State.advance_v (s : State) : (s.advance).v = s.v := rfl
@[simp] theorem State.advance_i (s : State) : (s.advance).i = s.i := rfl
@[simp] theorem State.advance_pc (s : State) : (s.advance).pc = s.pc + 2#16 := rfl
@[simp] theorem State.advance_sp (s : State) : (s.advance).sp = s.sp := rfl
@[simp] theorem State.advance_stack (s : State) : (s.advance).stack = s.stack := rfl
@[simp] theorem State.advance_dt (s : State) : (s.advance).dt = s.dt := rfl
@[simp] theorem State.advance_st (s : State) : (s.advance).st = s.st := rfl
@[simp] theorem State.advance_lastTick (s : State) : (s.advance).lastTick = s.lastTick := rfl
@[simp] theorem State.advance_endAddr (s : State) : (s.advance).endAddr = s.endAddr := rfl
@[simp] theorem State.advance_status (s : State) : (s.advance).status = s.status := rfl
@[simp] theorem State.advance_mem (s : State) : (s.advance).mem = s.mem := rfl
@[simp] theorem State.advance_fb (s : State) : (s.advance).fb = s.fb := rfl
@[simp] theorem State.advance_dirty (s : State) : (s.advance).dirty = s.dirty := rfl
@[simp] theorem State.advance_key (s : State) : (s.advance).key = s.key := rfl
@[simp] theorem State.advance_now (s : State) : (s.advance).now = s.now := rfl
@[simp] theorem State.advance_rand (s : State) : (s.advance).rand = s.rand := rfl
@[simp] theorem State.advance_out (s : State) : (s.advance).out = s.out := rfl
@[simp] theorem State.advance_inputIndex (s : State) : (s.advance).inputIndex = s.inputIndex := rfl

/-! ## skipIf -/

@[simp] theorem State.skipIf_cfg (s : State) (c : Bool) : (s.skipIf c).cfg = s.cfg := rfl
@[simp] theorem State.skipIf_v (s : State) (c : Bool) : (s.skipIf c).v = s.v := rfl
@[simp] theorem State.skipIf_i (s : State) (c : Bool) : (s.skipIf c).i = s.i := rfl
@[simp] theorem State.skipIf_pc (s : State) (c : Bool) : (s.skipIf c).pc = s.pc + (if c then 4#16 else 2#16) := rfl
@[simp] theorem State.skipIf_sp (s : State) (c : Bool) : (s.skipIf c).sp = s.sp := rfl
@[simp] theorem State.skipIf_stack (s : State) (c : Bool) : (s.skipIf c).stack = s.stack := rfl
@[simp] theorem State.skipIf_dt (s : State) (c : Bool) : (s.skipIf c).dt = s.dt := rfl
@[simp] theorem State.skipIf_st (s : State) (c : Bool) : (s.skipIf c).st = s.st := rfl
@[simp] theorem State.skipIf_lastTick (s : State) (c : Bool) : (s.skipIf c).lastTick = s.lastTick := rfl
@[simp] theorem State.skipIf_endAddr (s : State) (c : Bool) : (s.skipIf c).endAddr = s.endAddr := rfl
@[simp] theorem State.skipIf_status (s : State) (c : Bool) : (s.skipIf c).status = s.status := rfl
@[simp] theorem State.skipIf_mem (s : State) (c : Bool) : (s.skipIf c).mem = s.mem := rfl
@[simp] theorem State.skipIf_fb (s : State) (c : Bool) : (s.skipIf c).fb = s.fb := rfl
@[simp] theorem State.skipIf_dirty (s : State) (c : Bool) : (s.skipIf c).dirty = s.dirty := rfl
@[simp] theorem State.skipIf_key (s : State) (c : Bool) : (s.skipIf c).key = s.key := rfl
@[simp] theorem State.skipIf_now (s : State) (c : Bool) : (s.skipIf c).now = s.now := rfl
@[simp] theorem State.skipIf_rand (s : State) (c : Bool) : (s.skipIf c).rand = s.rand := rfl
@[simp] theorem State.skipIf_out (s : State) (c : Bool) : (s.skipIf c).out = s.out := rfl
@[simp] theorem State.skipIf_inputIndex (s : State) (c : Bool) : (s.skipIf c).inputIndex = s.inputIndex := rfl

/-! ## memWrite -/

@[simp] theorem State.memWrite_cfg (s : State) (a : Nat) (b : Byte) : (s.memWrite a b).cfg = s.cfg := rfl
@[simp] theorem State.memWrite_v (s : State) (a : Nat) (b : Byte) : (s.memWrite a b).v = s.v := rfl
@[simp] theorem State.memWrite_i (s : State) (a : Nat) (b : Byte) : (s.memWrite a b).i = s.i := rfl
@[simp] theorem State.memWrite_pc (s : State) (a : Nat) (b : Byte) : (s.memWrite a b).pc = s.pc := rfl
@[simp] theorem State.memWrite_sp (s : State) (a : Nat) (b : Byte) : (s.memWrite a b).sp = s.sp := rfl
@[simp] theorem State.memWrite_stack (s : State) (a : Nat) (b : Byte) : (s.memWrite a b).stack = s.stack := rfl
@[simp] theorem State.memWrite_dt (s : State) (a : Nat) (b : Byte) : (s.memWrite a b).dt = s.dt := rfl
@[simp] theorem State.memWrite_st (s : State) (a : Nat) (b : Byte) : (s.memWrite a b).st = s.st := rfl
@[simp] theorem State.memWrite_lastTick (s : State) (a : Nat) (b : Byte) : (s.memWrite a b).lastTick = s.lastTick := rfl
@[simp] theorem State.memWrite_endAddr (s : State) (a : Nat) (b : Byte) : (s.memWrite a b).endAddr = s.endAddr := rfl
@[simp] theorem State.memWrite_status (s : State) (a : Nat) (b : Byte) : (s.memWrite a b).status = s.status := rfl
@[simp] theorem State.memWrite_mem (s : State) (a : Nat) (b : Byte) : (s.memWrite a b).mem = Memory.write s.cfg s.mem a b := rfl
@[simp] theorem State.memWrite_fb (s : State) (a : Nat) (b : Byte) : (s.memWrite a b).fb = s.fb := rfl
@[simp] theorem State.memWrite_dirty (s : State) (a : Nat) (b : Byte) : (s.memWrite a b).dirty = s.dirty := rfl
@[simp] theorem State.memWrite_key (s : State) (a : Nat) (b : Byte) : (s.memWrite a b).key = s.key := rfl
@[simp] theorem State.memWrite_now (s : State) (a : Nat) (b : Byte) : (s.memWrite a b).now = s.now := rfl
@[simp] theorem State.memWrite_rand (s : State) (a : Nat) (b : Byte) : (s.memWrite a b).rand = s.rand := rfl
@[simp] theorem State.memWrite_out (s : State) (a : Nat) (b : Byte) : (s.memWrite a b).out = s.out := rfl
@[simp] theorem State.memWrite_inputIndex (s : State) (a : Nat) (b : Byte) : (s.memWrite a b).inputIndex = s.inputIndex := rfl

/-! ## setScreen -/

@[simp] theorem State.setScreen_cfg (s : State) (f : FrameBuffer) : (s.setScreen f).cfg = s.cfg := rfl
@[simp] theorem State.setScreen_v (s : State) (f : FrameBuffer) : (s.setScreen f).v = s.v := rfl
@[simp] theorem State.setScreen_i (s : State) (f : FrameBuffer) : (s.setScreen f).i = s.i := rfl
@[simp] theorem State.setScreen_pc (s : State) (f : FrameBuffer) : (s.setScreen f).pc = s.pc := rfl
@[simp] theorem State.setScreen_sp (s : State) (f : FrameBuffer) : (s.setScreen f).sp = s.sp := rfl
@[simp] theorem State.setScreen_stack (s : State) (f : FrameBuffer) : (s.setScreen f).stack = s.stack := rfl
@[simp] theorem State.setScreen_dt (s : State) (f : FrameBuffer) : (s.setScreen f).dt = s.dt := rfl
@[simp] theorem State.setScreen_st (s : State) (f : FrameBuffer) : (s.setScreen f).st = s.st := rfl
@[simp] theorem State.setScreen_lastTick (s : State) (f : FrameBuffer) : (s.setScreen f).lastTick = s.lastTick := rfl
@[simp] theorem State.setScreen_endAddr (s : State) (f : FrameBuffer) : (s.setScreen f).endAddr = s.endAddr := rfl
@[simp] theorem State.setScreen_status (s : State) (f : FrameBuffer) : (s.setScreen f).status = s.status := rfl
@[simp] theorem State.setScreen_mem (s : State) (f : FrameBuffer) : (s.setScreen f).mem = s.mem := rfl
@[simp] theorem State.setScreen_fb (s : State) (f : FrameBuffer) : (s.setScreen f).fb = f := rfl
@[simp] theorem State.setScreen_dirty (s : State) (f : FrameBuffer) : (s.setScreen f).dirty = true := rfl
@[simp] theorem State.setScreen_key (s : State) (f : FrameBuffer) : (s.setScreen f).key = s.key := rfl
@[simp] theorem State.setScreen_now (s : State) (f : FrameBuffer) : (s.setScreen f).now = s.now := rfl
@[simp] theorem State.setScreen_rand (s : State) (f : FrameBuffer) : (s.setScreen f).rand = s.rand := rfl
@[simp] theorem State.setScreen_out (s : State) (f : FrameBuffer) : (s.setScreen f).out = s.out := rfl
@[simp] theorem State.setScreen_inputIndex (s : State) (f : FrameBuffer) : (s.setScreen f).inputIndex = s.inputIndex := rfl

/-! ## raise -/

@[simp] theorem State.raise_cfg (s : State) (c : FatalCode) : (s.raise c).cfg = s.cfg := rfl
@[simp] theorem State.raise_v (s : State) (c : FatalCode) : (s.raise c).v = s.v := rfl
@[simp] theorem State.raise_i (s : State) (c : FatalCode) : (s.raise c).i = s.i := rfl
@[simp] theorem State.raise_pc (s : State) (c : FatalCode) : (s.raise c).pc = s.pc := rfl
@[simp] theorem State.raise_sp (s : State) (c : FatalCode) : (s.raise c).sp = s.sp := rfl
@[simp] theorem State.raise_stack (s : State) (c : FatalCode) : (s.raise c).stack = s.stack := rfl
@[simp] theorem State.raise_dt (s : State) (c : FatalCode) : (s.raise c).dt = s.dt := rfl
@[simp] theorem State.raise_st (s : State) (c : FatalCode) : (s.raise c).st = s.st := rfl
@[simp] theorem State.raise_lastTick (s : State) (c : FatalCode) : (s.raise c).lastTick = s.lastTick := rfl
@[simp] theorem State.raise_endAddr (s : State) (c : FatalCode) : (s.raise c).endAddr = s.endAddr := rfl
@[simp] theorem State.raise_status (s : State) (c : FatalCode) : (s.raise c).status = .faulted ⟨c, s.pc, s.fetch⟩ := rfl
@[simp] theorem State.raise_mem (s : State) (c : FatalCode) : (s.raise c).mem = s.mem := rfl
@[simp] theorem State.raise_fb (s : State) (c : FatalCode) : (s.raise c).fb = s.fb := rfl
@[simp] theorem State.raise_dirty (s : State) (c : FatalCode) : (s.raise c).dirty = s.dirty := rfl
@[simp] theorem State.raise_key (s : State) (c : FatalCode) : (s.raise c).key = s.key := rfl
@[simp] theorem State.raise_now (s : State) (c : FatalCode) : (s.raise c).now = s.now := rfl
@[simp] theorem State.raise_rand (s : State) (c : FatalCode) : (s.raise c).rand = s.rand := rfl
@[simp] theorem State.raise_out (s : State) (c : FatalCode) : (s.raise c).out = s.out := rfl
@[simp] theorem State.raise_inputIndex (s : State) (c : FatalCode) : (s.raise c).inputIndex = s.inputIndex := rfl

/-! ## tick -/

@[simp] theorem State.tick_cfg (s : State) : (s.tick).cfg = s.cfg := rfl
@[simp] theorem State.tick_v (s : State) : (s.tick).v = s.v := rfl
@[simp] theorem State.tick_i (s : State) : (s.tick).i = s.i := rfl
@[simp] theorem State.tick_pc (s : State) : (s.tick).pc = s.pc := rfl
@[simp] theorem State.tick_sp (s : State) : (s.tick).sp = s.sp := rfl
@[simp] theorem State.tick_stack (s : State) : (s.tick).stack = s.stack := rfl
@[simp] theorem State.tick_dt (s : State) : (s.tick).dt = if s.tickDue then countDown s.dt else s.dt := rfl
@[simp] theorem State.tick_st (s : State) : (s.tick).st = if s.tickDue then countDown s.st else s.st := rfl
@[simp] theorem State.tick_lastTick (s : State) : (s.tick).lastTick = if s.tickDue then s.now else s.lastTick := rfl
@[simp] theorem State.tick_endAddr (s : State) : (s.tick).endAddr = s.endAddr := rfl
@[simp] theorem State.tick_status (s : State) : (s.tick).status = s.status := rfl
@[simp] theorem State.tick_mem (s : State) : (s.tick).mem = s.mem := rfl
@[simp] theorem State.tick_fb (s : State) : (s.tick).fb = s.fb := rfl
@[simp] theorem State.tick_dirty (s : State) : (s.tick).dirty = s.dirty := rfl
@[simp] theorem State.tick_key (s : State) : (s.tick).key = s.key := rfl
@[simp] theorem State.tick_now (s : State) : (s.tick).now = s.now := rfl
@[simp] theorem State.tick_rand (s : State) : (s.tick).rand = s.rand := rfl
@[simp] theorem State.tick_out (s : State) : (s.tick).out = s.out := rfl
@[simp] theorem State.tick_inputIndex (s : State) : (s.tick).inputIndex = s.inputIndex := rfl

/-! ## report -/

@[simp] theorem State.report_cfg (s : State) (o : StepStatus) : (s.report o).cfg = s.cfg := rfl
@[simp] theorem State.report_v (s : State) (o : StepStatus) : (s.report o).v = s.v := rfl
@[simp] theorem State.report_i (s : State) (o : StepStatus) : (s.report o).i = s.i := rfl
@[simp] theorem State.report_pc (s : State) (o : StepStatus) : (s.report o).pc = s.pc := rfl
@[simp] theorem State.report_sp (s : State) (o : StepStatus) : (s.report o).sp = s.sp := rfl
@[simp] theorem State.report_stack (s : State) (o : StepStatus) : (s.report o).stack = s.stack := rfl
@[simp] theorem State.report_dt (s : State) (o : StepStatus) : (s.report o).dt = s.dt := rfl
@[simp] theorem State.report_st (s : State) (o : StepStatus) : (s.report o).st = s.st := rfl
@[simp] theorem State.report_lastTick (s : State) (o : StepStatus) : (s.report o).lastTick = s.lastTick := rfl
@[simp] theorem State.report_endAddr (s : State) (o : StepStatus) : (s.report o).endAddr = s.endAddr := rfl
@[simp] theorem State.report_status (s : State) (o : StepStatus) : (s.report o).status = s.status := rfl
@[simp] theorem State.report_mem (s : State) (o : StepStatus) : (s.report o).mem = s.mem := rfl
@[simp] theorem State.report_fb (s : State) (o : StepStatus) : (s.report o).fb = s.fb := rfl
@[simp] theorem State.report_dirty (s : State) (o : StepStatus) : (s.report o).dirty = s.dirty := rfl
@[simp] theorem State.report_key (s : State) (o : StepStatus) : (s.report o).key = s.key := rfl
@[simp] theorem State.report_now (s : State) (o : StepStatus) : (s.report o).now = s.now := rfl
@[simp] theorem State.report_rand (s : State) (o : StepStatus) : (s.report o).rand = s.rand := rfl
@[simp] theorem State.report_out (s : State) (o : StepStatus) : (s.report o).out = ⟨o, false, s.soundActive⟩ := rfl
@[simp] theorem State.report_inputIndex (s : State) (o : StepStatus) : (s.report o).inputIndex = s.inputIndex := rfl

/-! ## halt -/

@[simp] theorem State.halt_cfg (s : State) : (s.halt).cfg = s.cfg := rfl
@[simp] theorem State.halt_v (s : State) : (s.halt).v = s.v := rfl
@[simp] theorem State.halt_i (s : State) : (s.halt).i = s.i := rfl
@[simp] theorem State.halt_pc (s : State) : (s.halt).pc = s.pc := rfl
@[simp] theorem State.halt_sp (s : State) : (s.halt).sp = s.sp := rfl
@[simp] theorem State.halt_stack (s : State) : (s.halt).stack = s.stack := rfl
@[simp] theorem State.halt_dt (s : State) : (s.halt).dt = s.dt := rfl
@[simp] theorem State.halt_st (s : State) : (s.halt).st = s.st := rfl
@[simp] theorem State.halt_lastTick (s : State) : (s.halt).lastTick = s.lastTick := rfl
@[simp] theorem State.halt_endAddr (s : State) : (s.halt).endAddr = s.endAddr := rfl
@[simp] theorem State.halt_status (s : State) : (s.halt).status = .halted := rfl
@[simp] theorem State.halt_mem (s : State) : (s.halt).mem = s.mem := rfl
@[simp] theorem State.halt_fb (s : State) : (s.halt).fb = s.fb := rfl
@[simp] theorem State.halt_dirty (s : State) : (s.halt).dirty = s.dirty := rfl
@[simp] theorem State.halt_key (s : State) : (s.halt).key = s.key := rfl
@[simp] theorem State.halt_now (s : State) : (s.halt).now = s.now := rfl
@[simp] theorem State.halt_rand (s : State) : (s.halt).rand = s.rand := rfl
@[simp] theorem State.halt_out (s : State) : (s.halt).out = ⟨.halted, false, s.soundActive⟩ := rfl
@[simp] theorem State.halt_inputIndex (s : State) : (s.halt).inputIndex = s.inputIndex := rfl

/-! ## endStep -/

@[simp] theorem State.endStep_cfg (s : State) : (s.endStep).cfg = s.cfg := rfl
@[simp] theorem State.endStep_v (s : State) : (s.endStep).v = s.v := rfl
@[simp] theorem State.endStep_i (s : State) : (s.endStep).i = s.i := rfl
@[simp] theorem State.endStep_pc (s : State) : (s.endStep).pc = s.pc := rfl
@[simp] theorem State.endStep_sp (s : State) : (s.endStep).sp = s.sp := rfl
@[simp] theorem State.endStep_stack (s : State) : (s.endStep).stack = s.stack := rfl
@[simp] theorem State.endStep_dt (s : State) : (s.endStep).dt = s.dt := rfl
@[simp] theorem State.endStep_st (s : State) : (s.endStep).st = s.st := rfl
@[simp] theorem State.endStep_lastTick (s : State) : (s.endStep).lastTick = s.lastTick := rfl
@[simp] theorem State.endStep_endAddr (s : State) : (s.endStep).endAddr = s.endAddr := rfl
@[simp] theorem State.endStep_status (s : State) : (s.endStep).status = s.status := rfl
@[simp] theorem State.endStep_mem (s : State) : (s.endStep).mem = s.mem := rfl
@[simp] theorem State.endStep_fb (s : State) : (s.endStep).fb = s.fb := rfl
@[simp] theorem State.endStep_dirty (s : State) : (s.endStep).dirty = false := rfl
@[simp] theorem State.endStep_key (s : State) : (s.endStep).key = s.key := rfl
@[simp] theorem State.endStep_now (s : State) : (s.endStep).now = s.now := rfl
@[simp] theorem State.endStep_rand (s : State) : (s.endStep).rand = s.rand := rfl
@[simp] theorem State.endStep_out (s : State) : (s.endStep).out = ⟨.cont, s.dirty, s.soundActive⟩ := rfl
@[simp] theorem State.endStep_inputIndex (s : State) : (s.endStep).inputIndex = s.inputIndex := rfl

/-! ## hostTurn -/

@[simp] theorem State.hostTurn_cfg (s : State) : (s.hostTurn).cfg = s.cfg := rfl
@[simp] theorem State.hostTurn_v (s : State) : (s.hostTurn).v = s.v := rfl
@[simp] theorem State.hostTurn_i (s : State) : (s.hostTurn).i = s.i := rfl
@[simp] theorem State.hostTurn_pc (s : State) : (s.hostTurn).pc = s.pc := rfl
@[simp] theorem State.hostTurn_sp (s : State) : (s.hostTurn).sp = s.sp := rfl
@[simp] theorem State.hostTurn_stack (s : State) : (s.hostTurn).stack = s.stack := rfl
@[simp] theorem State.hostTurn_dt (s : State) : (s.hostTurn).dt = s.dt := rfl
@[simp] theorem State.hostTurn_st (s : State) : (s.hostTurn).st = s.st := rfl
@[simp] theorem State.hostTurn_lastTick (s : State) : (s.hostTurn).lastTick = s.lastTick := rfl
@[simp] theorem State.hostTurn_endAddr (s : State) : (s.hostTurn).endAddr = s.endAddr := rfl
@[simp] theorem State.hostTurn_status (s : State) : (s.hostTurn).status = s.status := rfl
@[simp] theorem State.hostTurn_mem (s : State) : (s.hostTurn).mem = s.mem := rfl
@[simp] theorem State.hostTurn_fb (s : State) : (s.hostTurn).fb = s.fb := rfl
@[simp] theorem State.hostTurn_dirty (s : State) : (s.hostTurn).dirty = s.dirty := rfl
@[simp] theorem State.hostTurn_key (s : State) : (s.hostTurn).key = Config.hostKeys s.inputIndex := rfl
@[simp] theorem State.hostTurn_now (s : State) : (s.hostTurn).now = s.now + Config.stepElapsed s.inputIndex := rfl
@[simp] theorem State.hostTurn_rand (s : State) : (s.hostTurn).rand = Config.stepRand s.inputIndex := rfl
@[simp] theorem State.hostTurn_out (s : State) : (s.hostTurn).out = s.out := rfl
@[simp] theorem State.hostTurn_inputIndex (s : State) : (s.hostTurn).inputIndex = s.inputIndex + 1 := rfl

end Sys2Proof.Machine
end

