-- ==== Sys2Proof/Laws/Cycle.lean ====
section
/-! SUPPORT. The cases of a step, said once: the end of an instruction with and without a fatal error, and the step that
does not execute. -/

namespace Sys2Proof.Machine

/-- After a fatal error everything but STATUS and the outputs is as before the step (R254). -/
theorem State.complete_faulted {s t : State} {r : FaultRecord} (h : t.status = .faulted r) :
    s.complete t = { s with status := .faulted r, out := ⟨.fault r, false, s.soundActive⟩ } := by
  simp [State.complete, h, State.report, State.soundActive]

/-- An instruction without a fatal error is followed by the tick, the end of the step and the host's turn (R123). -/
theorem State.complete_running {s t : State} (h : t.status = .run) :
    s.complete t = t.tick.endStep.hostTurn := by
  simp [State.complete, h]

/-- A fatal error raised by the step itself (R61, R126). -/
theorem State.stop_eq (s : State) (code : FatalCode) :
    s.stop code = { s with
      status := .faulted ⟨code, s.pc, s.fetch⟩, out := ⟨.fault ⟨code, s.pc, s.fetch⟩, false, s.soundActive⟩ } :=
  rfl

/-- A step that finds STATUS = RUN (R122, R123). -/
theorem step_running {s : State} (h : s.status = .run) : step s = runStep s := by
  simp [step, cycle, h]

/-- The step of the instruction at `pc`, when there is one (R123). -/
theorem step_executes {s : State} {w : Word} {i : Instr} (hrun : s.status = .run)
    (hpc : s.pc.toNat < s.endAddr.toNat) (hw : s.fetch = some w) (hi : decodeWord s.cfg.strictDecode w = some i) :
    step s = executeStep i s := by
  rw [step_running hrun, runStep, if_neg (by omega), hw]
  simp only [hi]

end Sys2Proof.Machine
end

