-- ==== Sys2Proof/Laws/Decode.lean ====
section
/-! SUPPORT. The encoder's arithmetic (R84) as concatenation of its nibbles, and the bytes of a word (R61). -/

namespace Sys2Proof

theorem wordOfNibbles_toNat (c x y n : Nibble) :
    (wordOfNibbles c x y n).toNat = c.toNat * 4096 + x.toNat * 256 + y.toNat * 16 + n.toNat := by
  have := c.isLt
  have := x.isLt
  have := y.isLt
  have := n.isLt
  simp only [wordOfNibbles, BitVec.toNat_ofNat]
  omega

theorem wordOfNibbles_eq_append (c x y n : Nibble) : wordOfNibbles c x y n = c ++ x ++ y ++ n := by
  apply BitVec.eq_of_toNat_eq
  rw [wordOfNibbles_toNat]
  simp only [BitVec.toNat_append]
  rw [← Nat.shiftLeft_add_eq_or_of_lt x.isLt, ← Nat.shiftLeft_add_eq_or_of_lt y.isLt,
    ← Nat.shiftLeft_add_eq_or_of_lt n.isLt]
  simp only [Nat.shiftLeft_eq]
  omega

/-- A mask acts on each nibble of a word by itself. -/
theorem wordOfNibbles_and (c x y n c' x' y' n' : Nibble) :
    wordOfNibbles c x y n &&& wordOfNibbles c' x' y' n' =
      wordOfNibbles (c &&& c') (x &&& x') (y &&& y') (n &&& n') := by
  simp only [wordOfNibbles_eq_append]
  apply BitVec.eq_of_getLsbD_eq
  intro k _
  simp only [BitVec.getLsbD_and, BitVec.getLsbD_append]
  split_ifs <;> rfl

@[simp] theorem wordOfBytes_highByte_lowByte (w : Word) : wordOfBytes (highByte w) (lowByte w) = w := by
  apply BitVec.eq_of_getLsbD_eq
  intro k hk
  simp only [wordOfBytes, highByte, lowByte, BitVec.getLsbD_append, BitVec.getLsbD_extractLsb']
  by_cases h : k < 8
  · simp [h]
  · simp [h, show k - 8 < 8 by omega, show 8 + (k - 8) = k by omega]

theorem wordOfBytes_toNat (hi lo : Byte) : (wordOfBytes hi lo).toNat = hi.toNat * 256 + lo.toNat := by
  have hlo := lo.isLt
  simp only [wordOfBytes, BitVec.toNat_append]
  rw [← Nat.shiftLeft_add_eq_or_of_lt hlo, Nat.shiftLeft_eq]

end Sys2Proof
end

