-- ==== Sys2Proof/Laws/Display.lean ====
section
/-! SUPPORT. The frame buffer: reading a pixel after writing one, and what one sprite byte does to each pixel (R191). -/

namespace Sys2Proof.Machine

theorem FrameBuffer.pixel_setPixel (fb : FrameBuffer) (row col r c : Nat) (p : Bool) :
    FrameBuffer.pixel (FrameBuffer.setPixel fb row col p) r c =
      if row % 32 = r % 32 ∧ col % 64 = c % 64 then p else FrameBuffer.pixel fb r c := by
  simp only [FrameBuffer.pixel, FrameBuffer.setPixel, Vector.getElem_set]
  by_cases hr : row % 32 = r % 32
  · by_cases hc : col % 64 = c % 64
    · simp [hr, hc]
    · simp [hr, hc]
  · simp [hr]

@[simp] theorem FrameBuffer.pixel_blankScreen (r c : Nat) : FrameBuffer.pixel blankScreen r c = false := by
  simp [FrameBuffer.pixel, blankScreen]

theorem Canvas.pixel_xorPixel (k : Canvas) (row col r c : Nat) :
    FrameBuffer.pixel (k.xorPixel row col).fb r c =
      (FrameBuffer.pixel k.fb r c ^^ decide (row % 32 = r % 32 ∧ col % 64 = c % 64)) := by
  simp only [Canvas.xorPixel, FrameBuffer.pixel_setPixel]
  by_cases h : row % 32 = r % 32 ∧ col % 64 = c % 64
  · have : FrameBuffer.pixel k.fb row col = FrameBuffer.pixel k.fb r c := by
      simp only [FrameBuffer.pixel, h.1, h.2]
    simp [h, this]
  · simp [h]

/-- Taking the row modulo 32 and the column modulo 64 first draws the same pixel (R191). -/
@[simp] theorem Canvas.xorPixel_wrap (k : Canvas) (row col : Nat) :
    k.xorPixel (row % 32) (col % 64) = k.xorPixel row col := by
  simp [Canvas.xorPixel, FrameBuffer.pixel, FrameBuffer.setPixel]

/-- One more column of a sprite byte (R191). -/
theorem Canvas.drawColumns_succ (cfg : Cfg) (b : Byte) (cx row c : Nat) (k : Canvas) :
    Canvas.drawColumns cfg b cx row (c + 1) k =
      if b.getLsbD (7 - c) then (Canvas.drawColumns cfg b cx row c k).xorPixel row (cx + c)
      else Canvas.drawColumns cfg b cx row c k := by
  simp [Canvas.drawColumns]

/-- Two frame buffers with the same pixels are equal. -/
theorem FrameBuffer.ext_pixel {f g : FrameBuffer}
    (h : ∀ r c, r < 32 → c < 64 → FrameBuffer.pixel f r c = FrameBuffer.pixel g r c) : f = g := by
  apply Vector.ext
  intro r hr
  apply Vector.ext
  intro c hc
  have := h r c hr hc
  simpa [FrameBuffer.pixel, Nat.mod_eq_of_lt hr, Nat.mod_eq_of_lt hc] using this

end Sys2Proof.Machine
end

