-- ==== Sys2Proof/Laws/Memory.lean ====
section
/-! SUPPORT. What memory operations do: a read after a write, and that every operation keeps the canonical form. -/

namespace Sys2Proof.Machine

theorem Memory.read_insert (cfg : Cfg) (m : Memory) (a c : Nat) (b : Byte) (low : Nat)
    (h : Memory.risesFrom low m = true) :
    Memory.read cfg (Memory.insert cfg m a b) c = if c = a then b else Memory.read cfg m c := by
  induction m generalizing low with
  | nil =>
    simp only [Memory.insert]
    split <;> rename_i hb <;> by_cases hc : c = a <;> simp [Memory.read, hc, hb]
    exact fun e => absurd e.symm hc
  | cons cell m ih =>
    obtain ⟨k, x⟩ := cell
    simp only [Memory.risesFrom, Bool.and_eq_true, decide_eq_true_eq] at h
    have low_miss : ∀ (l : Memory) (lo c : Nat), Memory.risesFrom lo l = true → c < lo →
        Memory.read cfg l c = initialByte cfg c := by
      intro l
      induction l with
      | nil => intros; rfl
      | cons cell l ihl =>
        obtain ⟨j, y⟩ := cell
        intro lo c hl hc
        simp only [Memory.risesFrom, Bool.and_eq_true, decide_eq_true_eq] at hl
        have hne : j ≠ c := by omega
        simp only [Memory.read, hne, if_false]
        exact ihl (j + 1) c hl.2 (by omega)
    simp only [Memory.insert]
    split
    · rename_i hlt
      have hak : k ≠ a := by omega
      split
      · rename_i hb
        by_cases hc : c = a
        · subst hc
          simp only [Memory.read, hak, if_false, if_true, hb]
          exact low_miss m (k + 1) c h.2 (by omega)
        · simp [hc]
      · by_cases hc : c = a
        · simp [Memory.read, hc]
        · simp [Memory.read, hc, Ne.symm hc]
    · split
      · rename_i hk
        subst hk
        split
        · rename_i hb
          by_cases hc : c = a
          · subst hc
            rw [low_miss m (c + 1) c h.2 (by omega)]
            simp [hb]
          · simp [Memory.read, hc, Ne.symm hc]
        · by_cases hc : c = a
          · simp [Memory.read, hc]
          · simp [Memory.read, hc, Ne.symm hc]
      · rename_i hne
        simp only [Memory.read, ih (k + 1) h.2]
        by_cases hc : c = a
        · subst hc
          simp [Ne.symm hne]
        · simp [hc]

theorem Memory.risesFrom_insert (cfg : Cfg) (m : Memory) (a low : Nat) (b : Byte) (hl : low ≤ a)
    (h : Memory.risesFrom low m = true) : Memory.risesFrom low (Memory.insert cfg m a b) = true := by
  induction m generalizing low with
  | nil =>
    simp only [Memory.insert]
    split <;> simp [Memory.risesFrom, hl]
  | cons cell m ih =>
    obtain ⟨k, x⟩ := cell
    simp only [Memory.risesFrom, Bool.and_eq_true, decide_eq_true_eq] at h
    simp only [Memory.insert]
    split
    · split
      · simp [Memory.risesFrom, h]
      · simp only [Memory.risesFrom, Bool.and_eq_true, decide_eq_true_eq]
        exact ⟨hl, by omega, h.2⟩
    · split
      · rename_i hk
        subst hk
        split
        · clear ih
          have weaken : ∀ (l : Memory) (lo hi : Nat), lo ≤ hi → Memory.risesFrom hi l = true →
              Memory.risesFrom lo l = true := by
            intro l lo hi hle hr
            cases l with
            | nil => rfl
            | cons c l =>
              simp only [Memory.risesFrom, Bool.and_eq_true, decide_eq_true_eq] at hr ⊢
              exact ⟨by omega, hr.2⟩
          exact weaken m low (a + 1) (by omega) h.2
        · simp [Memory.risesFrom, h]
      · simp only [Memory.risesFrom, Bool.and_eq_true, decide_eq_true_eq]
        exact ⟨h.1, ih (k + 1) (by omega) h.2⟩

theorem Memory.mem_insert {cfg : Cfg} {m : Memory} {a : Nat} {b : Byte} {cell : Host.Cell}
    (h : cell ∈ Memory.insert cfg m a b) : cell ∈ m ∨ (cell = (a, b) ∧ b ≠ initialByte cfg a) := by
  induction m with
  | nil =>
    simp only [Memory.insert] at h
    split at h <;> simp_all
  | cons c m ih =>
    obtain ⟨k, x⟩ := c
    simp only [Memory.insert] at h
    split at h
    · split at h
      · exact .inl h
      · rcases List.mem_cons.mp h with rfl | h'
        · exact .inr ⟨rfl, by assumption⟩
        · exact .inl h'
    · split at h
      · split at h
        · exact .inl (List.mem_cons_of_mem _ h)
        · rcases List.mem_cons.mp h with rfl | h'
          · exact .inr ⟨rfl, by assumption⟩
          · exact .inl (List.mem_cons_of_mem _ h')
      · rcases List.mem_cons.mp h with rfl | h'
        · exact .inl List.mem_cons_self
        · rcases ih h' with h1 | h1
          · exact .inl (List.mem_cons_of_mem _ h1)
          · exact .inr h1

/-- The canonical form, said of each cell. -/
theorem Memory.wf_iff (cfg : Cfg) (m : Memory) :
    Memory.wf cfg m = true ↔
      Memory.risesFrom 0 m = true ∧
        ∀ cell ∈ m, cell.1 < cfg.memSize ∧ cell.2 ≠ initialByte cfg cell.1 := by
  simp [Memory.wf]

/-- The empty memory, every byte as after reset, is canonical. -/
@[simp] theorem Memory.wf_nil (cfg : Cfg) : Memory.wf cfg [] = true := rfl

theorem Memory.wf_write {cfg : Cfg} {m : Memory} (a : Nat) (b : Byte) (h : Memory.wf cfg m = true) :
    Memory.wf cfg (Memory.write cfg m a b) = true := by
  unfold Memory.write
  split
  · rw [Memory.wf_iff] at h ⊢
    refine ⟨Memory.risesFrom_insert cfg m a 0 b (Nat.zero_le _) h.1, fun cell hc => ?_⟩
    rcases Memory.mem_insert hc with hm | ⟨rfl, hb⟩
    · exact h.2 cell hm
    · exact ⟨by assumption, hb⟩
  · exact h

theorem Memory.wf_writeBytes {cfg : Cfg} {m : Memory} (a : Nat) (bs : List Byte) (h : Memory.wf cfg m = true) :
    Memory.wf cfg (Memory.writeBytes cfg m a bs) = true := by
  induction bs generalizing m a with
  | nil => exact h
  | cons b bs ih => exact ih (a + 1) (Memory.wf_write a b h)

/-- A write inside memory is read back, and every other byte is as before. -/
theorem Memory.read_write {cfg : Cfg} {m : Memory} (a c : Nat) (b : Byte) (h : Memory.wf cfg m = true)
    (ha : a < cfg.memSize) :
    Memory.read cfg (Memory.write cfg m a b) c = if c = a then b else Memory.read cfg m c := by
  simp only [Memory.write, ha, if_true]
  exact Memory.read_insert cfg m a c b 0 ((Memory.wf_iff cfg m).mp h).1

/-- A memory of the state in canonical form. -/
abbrev State.memWf (s : State) : Prop :=
  Memory.wf s.cfg s.mem = true

theorem State.memWf_memWrite {s : State} (a : Nat) (b : Byte) (h : s.memWf) : (s.memWrite a b).memWf :=
  Memory.wf_write a b h

theorem State.memRead_memWrite {s : State} (a c : Nat) (b : Byte) (h : s.memWf) (ha : a < s.cfg.memSize) :
    (s.memWrite a b).memRead c = if c = a then b else s.memRead c :=
  Memory.read_write a c b h ha

/-- A memory read looks at the configuration and `mem` alone. -/
theorem State.memRead_congr {s t : State} (hc : t.cfg = s.cfg) (hm : t.mem = s.mem) (a : Nat) :
    t.memRead a = s.memRead a := by
  simp [State.memRead, hc, hm]

/-- A fetch whose second byte lies in memory answers the big-endian word (R61). -/
theorem State.fetchAt_of_lt {s : State} {a : Nat} (h : a + 1 < s.cfg.memSize) :
    s.fetchAt a = some (wordOfBytes (s.memRead a) (s.memRead (a + 1))) :=
  if_neg (by omega)

/-- A fetch whose second byte lies outside memory answers none (R61). -/
theorem State.fetchAt_of_le {s : State} {a : Nat} (h : s.cfg.memSize ≤ a + 1) : s.fetchAt a = none :=
  if_pos h

@[simp] theorem State.memRead_setPc (s : State) (p : Word) (a : Nat) : (s.setPc p).memRead a = s.memRead a := rfl
@[simp] theorem State.memRead_advance (s : State) (a : Nat) : s.advance.memRead a = s.memRead a := rfl
@[simp] theorem State.memRead_setI (s : State) (p : Word) (a : Nat) : (s.setI p).memRead a = s.memRead a := rfl
@[simp] theorem State.memRead_writeV (s : State) (x : Nibble) (b : Byte) (a : Nat) :
    (s.writeV x b).memRead a = s.memRead a := rfl

end Sys2Proof.Machine
end

