-- ==== Sys2Proof/Laws/Registers.lean ====
section
/-! SUPPORT. Reading a general register after each update that writes one, and the values of the flag and operand helpers as
natural numbers. -/

namespace Sys2Proof.Machine

theorem Nibble.eq_of_toNat {x y : Nibble} : x.toNat = y.toNat ↔ x = y :=
  ⟨BitVec.eq_of_toNat_eq, fun h => h ▸ rfl⟩

@[simp] theorem State.readV_writeV (s : State) (x k : Nibble) (b : Byte) :
    (s.writeV x b).readV k = if k = x then b else s.readV k := by
  simp only [State.readV, State.writeV, Vector.getElem_set]
  by_cases h : k = x
  · simp [h]
  · have h' : x.toNat ≠ k.toNat := fun e => h (Nibble.eq_of_toNat.mp e).symm
    simp [h, h']

@[simp] theorem State.readV_setFlag (s : State) (k : Nibble) (f : Bool) :
    (s.setFlag f).readV k = if k = 0xF#4 then bit f else s.readV k :=
  s.readV_writeV 0xF#4 k (bit f)

@[simp] theorem State.readV_writeWithFlag (s : State) (x k : Nibble) (b : Byte) (f : Bool) :
    (s.writeWithFlag x b f).readV k = if k = 0xF#4 then bit f else if k = x then b else s.readV k := by
  simp [State.writeWithFlag]

/-- A register read looks at `v` alone. -/
theorem State.readV_congr {s t : State} (h : t.v = s.v) (k : Nibble) : t.readV k = s.readV k := by
  simp [State.readV, h]

@[simp] theorem State.readV_setPc (s : State) (a : Word) (k : Nibble) : (s.setPc a).readV k = s.readV k := rfl
@[simp] theorem State.readV_advance (s : State) (k : Nibble) : s.advance.readV k = s.readV k := rfl
@[simp] theorem State.readV_skipIf (s : State) (c : Bool) (k : Nibble) : (s.skipIf c).readV k = s.readV k := rfl
@[simp] theorem State.readV_setI (s : State) (a : Word) (k : Nibble) : (s.setI a).readV k = s.readV k := rfl
@[simp] theorem State.readV_memWrite (s : State) (a : Nat) (b : Byte) (k : Nibble) :
    (s.memWrite a b).readV k = s.readV k := rfl
@[simp] theorem State.readV_setScreen (s : State) (f : FrameBuffer) (k : Nibble) :
    (s.setScreen f).readV k = s.readV k := rfl
@[simp] theorem State.readV_raise (s : State) (c : FatalCode) (k : Nibble) : (s.raise c).readV k = s.readV k := rfl

@[simp] theorem bit_toNat (b : Bool) : (bit b).toNat = if b then 1 else 0 := by
  cases b <;> rfl

@[simp] theorem zextAddr_toNat (a : Addr12) : (zextAddr a).toNat = a.toNat := by
  have := a.isLt
  simp only [zextAddr, BitVec.toNat_setWidth]
  omega

@[simp] theorem zextByte_toNat (b : Byte) : (zextByte b).toNat = b.toNat := by
  have := b.isLt
  simp only [zextByte, BitVec.toNat_setWidth]
  omega

@[simp] theorem hundreds_toNat (b : Byte) : (hundreds b).toNat = b.toNat / 100 := by
  have := b.isLt
  simp only [hundreds, BitVec.toNat_ofNat]
  omega

@[simp] theorem tens_toNat (b : Byte) : (tens b).toNat = b.toNat / 10 % 10 := by
  simp only [tens, BitVec.toNat_ofNat]
  omega

@[simp] theorem ones_toNat (b : Byte) : (ones b).toNat = b.toNat % 10 := by
  simp only [ones, BitVec.toNat_ofNat]
  omega

theorem countDown_toNat (b : Byte) : (countDown b).toNat = b.toNat - 1 := by
  have := b.isLt
  unfold countDown
  split
  · simp_all
  · rename_i h
    have : b.toNat ≠ 0 := fun e => h (BitVec.eq_of_toNat_eq e)
    simp only [BitVec.toNat_sub, BitVec.toNat_ofNat]
    omega

end Sys2Proof.Machine
end

