-- ==== Sys2Proof/Laws/Ops.lean ====
section
/-! SUPPORT. One lemma for each shared operation that says everything it can do: push, pop, a meaning with one fatal
condition, and the bulk moves between registers and memory. -/

namespace Sys2Proof.Machine

/-- A push either finds room, or answers none on the full stack (R28). -/
theorem State.push?_eq (s : State) (a : Word) :
    (∃ h : s.sp.val < 16, s.push? a =
        some { s with stack := s.stack.set s.sp.val a h, sp := ⟨s.sp.val + 1, by omega⟩ }) ∨
      (s.sp.val = 16 ∧ s.push? a = none) := by
  by_cases h : s.sp.val < 16
  · exact .inl ⟨h, by simp [State.push?, h]⟩
  · exact .inr ⟨by have := s.sp.isLt; omega, by simp [State.push?, h]⟩

/-- `KEY[V[x]]` of a key that exists (R210, R211). -/
theorem State.keyOf_of_lt {s : State} {x : Nibble} (h : (s.readV x).toNat < 16) :
    s.keyOf x = s.key[(s.readV x).toNat]'h := by
  simp [State.keyOf, h]

/-- There is no key of an index above 15 (R210, R211). -/
theorem State.keyOf_of_le {s : State} {x : Nibble} (h : 16 ≤ (s.readV x).toNat) : s.keyOf x = false := by
  simp [State.keyOf, show ¬(s.readV x).toNat < 16 by omega]

/-- The lowest pressed key is the lowest of sixteen (R213). -/
theorem State.firstKey?_eq (s : State) : s.firstKey? = lowestKey s.key 16 0 := by
  simp [State.firstKey?]

/-- A pop either takes the top entry, or answers none on the empty stack (R28). -/
theorem State.pop?_eq (s : State) :
    (∃ _ : 0 < s.sp.val, s.pop? =
        some (s.stack[s.sp.val - 1]'(by omega), { s with sp := ⟨s.sp.val - 1, by omega⟩ })) ∨
      (s.sp.val = 0 ∧ s.pop? = none) := by
  by_cases h : 0 < s.sp.val
  · exact .inl ⟨h, by simp [State.pop?, h]⟩
  · exact .inr ⟨by omega, by simp [State.pop?, h]⟩

/-- A meaning with one fatal condition takes the error if the condition holds. -/
theorem fatalIf_pos {bad : Prop} [Decidable bad] {code : FatalCode} {s effect : State} (h : bad) :
    fatalIf bad code s effect = .next (s.raise code) := by
  simp [fatalIf, h]

/-- A meaning with one fatal condition has its effect if the condition does not hold. -/
theorem fatalIf_neg {bad : Prop} [Decidable bad] {code : FatalCode} {s effect : State} (h : ¬bad) :
    fatalIf bad code s effect = .next effect := by
  simp [fatalIf, h]

/-- Storing registers changes memory alone. -/
theorem State.storeRegs_eq (s : State) (n : Nat) : s.storeRegs n = { s with mem := (s.storeRegs n).mem } := by
  induction n with
  | zero => rfl
  | succ n ih => simp only [State.storeRegs, State.memWrite]; rw [ih]

theorem State.memWf_storeRegs {s : State} (n : Nat) (h : s.memWf) : (s.storeRegs n).memWf := by
  induction n with
  | zero => exact h
  | succ n ih => exact State.memWf_memWrite _ _ ih

/-- Memory after storing n registers at I (R234). -/
theorem State.memRead_storeRegs {s : State} (n : Nat) (hn : n ≤ 16) (h : s.memWf)
    (hr : s.i.toNat + n ≤ s.cfg.memSize) (c : Nat) :
    (s.storeRegs n).memRead c =
      if s.i.toNat ≤ c ∧ c < s.i.toNat + n then s.readV (BitVec.ofNat 4 (c - s.i.toNat)) else s.memRead c := by
  induction n with
  | zero => simp [State.storeRegs, show ¬(s.i.toNat ≤ c ∧ c < s.i.toNat) by omega]
  | succ n ih =>
    have hc : (s.storeRegs n).cfg = s.cfg := by rw [State.storeRegs_eq]
    rw [State.storeRegs, State.memRead_memWrite _ _ _ (State.memWf_storeRegs n h) (by rw [hc]; omega),
      ih (by omega) (by omega)]
    by_cases hcn : c = s.i.toNat + n
    · subst hcn
      simp
    · by_cases hin : s.i.toNat ≤ c ∧ c < s.i.toNat + n
      · rw [if_neg hcn, if_pos hin, if_pos (by omega)]
      · rw [if_neg hcn, if_neg hin, if_neg (by omega)]

/-- Loading registers changes V alone. -/
theorem State.loadRegs_eq (s : State) (n : Nat) : s.loadRegs n = { s with v := (s.loadRegs n).v } := by
  induction n with
  | zero => rfl
  | succ n ih => simp only [State.loadRegs, State.writeV]; rw [ih]

/-- The registers after loading n of them from I (R235). -/
theorem State.readV_loadRegs (s : State) (n : Nat) (hn : n ≤ 16) (k : Nibble) :
    (s.loadRegs n).readV k = if k.toNat < n then s.memRead (s.i.toNat + k.toNat) else s.readV k := by
  induction n with
  | zero => simp [State.loadRegs]
  | succ n ih =>
    rw [State.loadRegs, State.readV_writeV, ih (by omega)]
    by_cases hk : k.toNat = n
    · subst hk
      simp
    · have hne : k ≠ BitVec.ofNat 4 n := by
        rintro rfl
        simp only [BitVec.toNat_ofNat] at hk
        omega
      rw [if_neg hne]
      by_cases hlt : k.toNat < n
      · rw [if_pos hlt, if_pos (by omega)]
      · rw [if_neg hlt, if_neg (by omega)]

/-- `I` after a bulk move; nothing else changes (R234, R235). -/
theorem State.bumpI_eq (s : State) (n : Nat) :
    s.bumpI n = s.setI (if s.cfg.ldstIncrementsI then BitVec.ofNat 16 (s.i.toNat + n) else s.i) := by
  unfold State.bumpI
  split <;> rfl

end Sys2Proof.Machine
end

