-- ==== Sys2Proof/Laws/PerInstr.lean ====
section
/-! SUPPORT. Per instruction: the word the encoder emits selects the instruction's own row of the opcode map, in either
decoding mode (R86, R88). -/

namespace Sys2Proof.Laws.SelectsOwnRow

/-- The encoded word, masked by the row's mask in a mode, is the row's match value. -/
def Statement (i : Instr) : Prop :=
  ∀ strict, i.pattern.selectedBy strict (encode i)

variable {i : Instr} {c x y n : Nibble}

/-- A row whose masks keep the category alone. -/
theorem of_category (henc : encode i = wordOfNibbles c x y n)
    (hrow : i.pattern = ⟨wordOfNibbles c 0 0 0, 0xF000, 0xF000⟩) : Statement i := by
  have h := wordOfNibbles_and c x y n 0xF 0 0 0
  simp only [show ∀ a : Nibble, a &&& 0 = 0 by decide, show ∀ a : Nibble, a &&& 0xF = a by decide] at h
  intro strict
  rw [Pattern.selectedBy, henc, hrow]
  cases strict <;> exact h

/-- A row whose masks keep the category and N. -/
theorem of_nibble (henc : encode i = wordOfNibbles c x y n)
    (hrow : i.pattern = ⟨wordOfNibbles c 0 0 n, 0xF00F, 0xF00F⟩) : Statement i := by
  have h := wordOfNibbles_and c x y n 0xF 0 0 0xF
  simp only [show ∀ a : Nibble, a &&& 0 = 0 by decide, show ∀ a : Nibble, a &&& 0xF = a by decide] at h
  intro strict
  rw [Pattern.selectedBy, henc, hrow]
  cases strict <;> exact h

/-- A row whose masks keep the category and KK. -/
theorem of_byte (henc : encode i = wordOfNibbles c x y n)
    (hrow : i.pattern = ⟨wordOfNibbles c 0 y n, 0xF0FF, 0xF0FF⟩) : Statement i := by
  have h := wordOfNibbles_and c x y n 0xF 0 0xF 0xF
  simp only [show ∀ a : Nibble, a &&& 0 = 0 by decide, show ∀ a : Nibble, a &&& 0xF = a by decide] at h
  intro strict
  rw [Pattern.selectedBy, henc, hrow]
  cases strict <;> exact h

theorem cls : Statement .cls := by
  intro strict
  cases strict <;> decide

theorem ret : Statement .ret := by
  intro strict
  cases strict <;> decide

theorem jp (nnn : Addr12) : Statement (.jp nnn) :=
  of_category rfl rfl

theorem call (nnn : Addr12) : Statement (.call nnn) :=
  of_category rfl rfl

theorem seImm (x : Nibble) (kk : Byte) : Statement (.seImm x kk) :=
  of_category rfl rfl

theorem sneImm (x : Nibble) (kk : Byte) : Statement (.sneImm x kk) :=
  of_category rfl rfl

theorem seReg (x y : Nibble) : Statement (.seReg x y) := by
  have hc := wordOfNibbles_and 0x5 x y 0x0 0xF 0 0 0
  have hn := wordOfNibbles_and 0x5 x y 0x0 0xF 0 0 0xF
  simp only [show ∀ a : Nibble, a &&& 0 = 0 by decide, show ∀ a : Nibble, a &&& 0xF = a by decide] at hc hn
  intro strict
  cases strict
  · exact hc
  · exact hn

theorem ldImm (x : Nibble) (kk : Byte) : Statement (.ldImm x kk) :=
  of_category rfl rfl

theorem addImm (x : Nibble) (kk : Byte) : Statement (.addImm x kk) :=
  of_category rfl rfl

theorem ldReg (x y : Nibble) : Statement (.ldReg x y) :=
  of_nibble rfl rfl

theorem orReg (x y : Nibble) : Statement (.orReg x y) :=
  of_nibble rfl rfl

theorem andReg (x y : Nibble) : Statement (.andReg x y) :=
  of_nibble rfl rfl

theorem xorReg (x y : Nibble) : Statement (.xorReg x y) :=
  of_nibble rfl rfl

theorem addReg (x y : Nibble) : Statement (.addReg x y) :=
  of_nibble rfl rfl

theorem sub (x y : Nibble) : Statement (.sub x y) :=
  of_nibble rfl rfl

theorem shr (x y : Nibble) : Statement (.shr x y) :=
  of_nibble rfl rfl

theorem subn (x y : Nibble) : Statement (.subn x y) :=
  of_nibble rfl rfl

theorem shl (x y : Nibble) : Statement (.shl x y) :=
  of_nibble rfl rfl

theorem sneReg (x y : Nibble) : Statement (.sneReg x y) :=
  of_nibble rfl rfl

theorem ldI (nnn : Addr12) : Statement (.ldI nnn) :=
  of_category rfl rfl

theorem jpV0 (nnn : Addr12) : Statement (.jpV0 nnn) :=
  of_category rfl rfl

theorem rnd (x : Nibble) (kk : Byte) : Statement (.rnd x kk) :=
  of_category rfl rfl

theorem drw (x y n : Nibble) : Statement (.drw x y n) :=
  of_category rfl rfl

theorem skp (x : Nibble) : Statement (.skp x) :=
  of_byte rfl rfl

theorem sknp (x : Nibble) : Statement (.sknp x) :=
  of_byte rfl rfl

theorem ldVxDt (x : Nibble) : Statement (.ldVxDt x) :=
  of_byte rfl rfl

theorem ldVxK (x : Nibble) : Statement (.ldVxK x) :=
  of_byte rfl rfl

theorem ldDtVx (x : Nibble) : Statement (.ldDtVx x) :=
  of_byte rfl rfl

theorem ldStVx (x : Nibble) : Statement (.ldStVx x) :=
  of_byte rfl rfl

theorem addI (x : Nibble) : Statement (.addI x) :=
  of_byte rfl rfl

theorem ldF (x : Nibble) : Statement (.ldF x) :=
  of_byte rfl rfl

theorem ldB (x : Nibble) : Statement (.ldB x) :=
  of_byte rfl rfl

theorem stRegs (x : Nibble) : Statement (.stRegs x) :=
  of_byte rfl rfl

theorem ldRegs (x : Nibble) : Statement (.ldRegs x) :=
  of_byte rfl rfl

end Sys2Proof.Laws.SelectsOwnRow
end

