-- ==== Sys2Proof/Machine/Asm.lean ====
section
/-! DEFINITION. The assembler text of an instruction (30_encoding.md R93), for diagnostics only: no rule depends on it. -/

namespace Sys2Proof.Machine

/-- An uppercase hexadecimal digit. -/
def hexDigit (n : Nibble) : String :=
  String.singleton (Nat.digitChar n.toNat).toUpper

/-- A register, `V0` to `VF`. -/
def regText (x : Nibble) : String :=
  "V" ++ hexDigit x

/-- An 8-bit immediate, `0x..`. -/
def byteText (kk : Byte) : String :=
  "0x" ++ hexDigit (kk.extractLsb' 4 4) ++ hexDigit (kk.extractLsb' 0 4)

/-- A 12-bit immediate, `0x...`. -/
def addrText (nnn : Addr12) : String :=
  "0x" ++ hexDigit (nnn.extractLsb' 8 4) ++ hexDigit (nnn.extractLsb' 4 4) ++ hexDigit (nnn.extractLsb' 0 4)

/-- An operand list of two. -/
def two (op a b : String) : String :=
  op ++ " " ++ a ++ ", " ++ b

/-- The conventional spelling of R88, Table 2, with R93's operand texts. -/
def asm : Instr → String
  | .cls => "CLS"
  | .ret => "RET"
  | .jp nnn => "JP " ++ addrText nnn
  | .call nnn => "CALL " ++ addrText nnn
  | .seImm x kk => two "SE" (regText x) (byteText kk)
  | .sneImm x kk => two "SNE" (regText x) (byteText kk)
  | .seReg x y => two "SE" (regText x) (regText y)
  | .ldImm x kk => two "LD" (regText x) (byteText kk)
  | .addImm x kk => two "ADD" (regText x) (byteText kk)
  | .ldReg x y => two "LD" (regText x) (regText y)
  | .orReg x y => two "OR" (regText x) (regText y)
  | .andReg x y => two "AND" (regText x) (regText y)
  | .xorReg x y => two "XOR" (regText x) (regText y)
  | .addReg x y => two "ADD" (regText x) (regText y)
  | .sub x y => two "SUB" (regText x) (regText y)
  | .shr x y => two "SHR" (regText x) (regText y)
  | .subn x y => two "SUBN" (regText x) (regText y)
  | .shl x y => two "SHL" (regText x) (regText y)
  | .sneReg x y => two "SNE" (regText x) (regText y)
  | .ldI nnn => two "LD" "I" (addrText nnn)
  | .jpV0 nnn => two "JP" "V0" (addrText nnn)
  | .rnd x kk => two "RND" (regText x) (byteText kk)
  | .drw x y n => two "DRW" (regText x) (regText y) ++ ", " ++ toString n.toNat
  | .skp x => "SKP " ++ regText x
  | .sknp x => "SKNP " ++ regText x
  | .ldVxDt x => two "LD" (regText x) "DT"
  | .ldVxK x => two "LD" (regText x) "K"
  | .ldDtVx x => two "LD" "DT" (regText x)
  | .ldStVx x => two "LD" "ST" (regText x)
  | .addI x => two "ADD" "I" (regText x)
  | .ldF x => two "LD" "F" (regText x)
  | .ldB x => two "LD" "B" (regText x)
  | .stRegs x => two "LD" "[I]" (regText x)
  | .ldRegs x => two "LD" (regText x) "[I]"

end Sys2Proof.Machine
end

