-- ==== Sys2Proof/Tests/Slice0.lean ====
section
/-! SUPPORT. Small tests: ill-formed terms, words written out from 30_encoding.md R88, one step of each instruction with the
result 95_test_vectors.md gives, and a witness for the hypotheses of each statement. -/

namespace Sys2Proof.Tests

open Sys2Proof.Machine Sys2Proof.Claims

/-! ## Helpers -/

/-- The harness of 95_test_vectors.md section 1: a 0x100-byte image of zeros, so END = 0x300, host time 0, random byte 0. -/
def base : State :=
  { State.afterLoad defaultCfg [] 0x100 0 with now := 0, rand := 0 }

/-- The word `w` stored big-endian at `pc`. -/
def put (w : Word) (s : State) : State :=
  { s with mem := Memory.writeBytes s.cfg s.mem s.pc.toNat [highByte w, lowByte w] }

/-- Another configuration. -/
def withCfg (c : Cfg) (s : State) : State :=
  { s with cfg := c }

/-- Keys pressed. -/
def press (ks : List (Fin 16)) (s : State) : State :=
  { s with key := Vector.ofFn fun k => decide (k ∈ ks) }

/-- `END` at the top of memory. -/
def top (s : State) : State :=
  { s with endAddr := 0x1000 }

/-- A part of the state after one step. -/
def after {α : Type} (s : State) (f : State → α) : Option α :=
  match step s with
  | .next t => some (f t)
  | _ => none

/-- What a step that faults at 0x200 leaves. -/
def faultIs (s : State) (code : FatalCode) (w : Word) : Prop :=
  after s (fun t => (t.status, t.out.status)) = some (.faulted ⟨code, 0x200, some w⟩, .fault ⟨code, 0x200, some w⟩)

/-! ## Ill-formed terms -/

/-- R83: `KK = Y × 16 + N`. -/
theorem test_fields_kk : Fields.wellFormed ⟨0x6, 0x0, 0x0, 0x5, 0x15, 0x015⟩ = false := by decide

/-- R83: `NNN = X × 256 + KK`. -/
theorem test_fields_nnn : Fields.wellFormed ⟨0x6, 0x0, 0x0, 0x5, 0x05, 0x105⟩ = false := by decide

theorem test_fields_ok : Fields.wellFormed ⟨0xD, 0xA, 0xB, 0xC, 0xBC, 0xABC⟩ = true := by decide

theorem test_cfg_ok : defaultCfg.wellFormed = true := by decide

/-- R4, Table 1: the rows that are the shape of the state. -/
theorem test_cfg_shape :
    (defaultCfg.numRegs.val, defaultCfg.regWidth.val, defaultCfg.iWidth.val, defaultCfg.pcWidth.val) = (16, 8, 16, 16) ∧
    (defaultCfg.stackDepth.val, defaultCfg.fbWidth.val, defaultCfg.fbHeight.val, defaultCfg.numKeys.val) =
      (16, 64, 32, 16) := by decide

theorem test_cfg_memory : Cfg.memoryFits { defaultCfg with memSize := 0x1001 } = false := by decide

theorem test_cfg_load : Cfg.loadAddrFits { defaultCfg with loadAddr := 0x1001 } = false := by decide

theorem test_cfg_font_complete : Cfg.fontComplete { defaultCfg with fontGlyphSize := 6 } = false := by decide

theorem test_cfg_font_fits : Cfg.fontFits { defaultCfg with fontBase := 0xFB1 } = false := by decide

theorem test_cfg_font_addressable : Cfg.fontAddressable { defaultCfg with fontGlyphSize := 0x102 } = false := by decide

theorem test_cfg_whole : Cfg.wellFormed { defaultCfg with fontBase := 0xFB1 } = false := by decide

/-- T-LOAD-1: 0xE01 bytes do not fit, and T-LOAD-2: 0xE00 bytes do. -/
theorem test_image_fits :
    imageFits defaultCfg (List.replicate 0xE01 0) = false ∧ imageFits defaultCfg (List.replicate 0xE00 0) = true := by
  simp only [imageFits, List.length_replicate]
  decide

/-! ## Words written out from R88, Table 2 -/

theorem test_decode_cls :
    (0x00E0 : Word) &&& 0xF0FF = 0x00E0 ∧ decodeWord false 0x00E0 = some (.cls) := by decide

theorem test_decode_ret :
    (0x00EE : Word) &&& 0xF0FF = 0x00EE ∧ decodeWord false 0x00EE = some (.ret) := by decide

theorem test_decode_jp :
    (0x1ABC : Word) &&& 0xF000 = 0x1000 ∧ decodeWord false 0x1ABC = some (.jp 0xABC) := by decide

theorem test_decode_call :
    (0x2ABC : Word) &&& 0xF000 = 0x2000 ∧ decodeWord false 0x2ABC = some (.call 0xABC) := by decide

theorem test_decode_seImm :
    (0x3312 : Word) &&& 0xF000 = 0x3000 ∧ decodeWord false 0x3312 = some (.seImm 0x3 0x12) := by decide

theorem test_decode_sneImm :
    (0x4312 : Word) &&& 0xF000 = 0x4000 ∧ decodeWord false 0x4312 = some (.sneImm 0x3 0x12) := by decide

theorem test_decode_seReg :
    (0x5120 : Word) &&& 0xF000 = 0x5000 ∧ decodeWord false 0x5120 = some (.seReg 0x1 0x2) := by decide

theorem test_decode_ldImm :
    (0x6FAB : Word) &&& 0xF000 = 0x6000 ∧ decodeWord false 0x6FAB = some (.ldImm 0xF 0xAB) := by decide

theorem test_decode_addImm :
    (0x7F01 : Word) &&& 0xF000 = 0x7000 ∧ decodeWord false 0x7F01 = some (.addImm 0xF 0x01) := by decide

theorem test_decode_ldReg :
    (0x8120 : Word) &&& 0xF00F = 0x8000 ∧ decodeWord false 0x8120 = some (.ldReg 0x1 0x2) := by decide

theorem test_decode_orReg :
    (0x8121 : Word) &&& 0xF00F = 0x8001 ∧ decodeWord false 0x8121 = some (.orReg 0x1 0x2) := by decide

theorem test_decode_andReg :
    (0x8122 : Word) &&& 0xF00F = 0x8002 ∧ decodeWord false 0x8122 = some (.andReg 0x1 0x2) := by decide

theorem test_decode_xorReg :
    (0x8123 : Word) &&& 0xF00F = 0x8003 ∧ decodeWord false 0x8123 = some (.xorReg 0x1 0x2) := by decide

theorem test_decode_addReg :
    (0x8F14 : Word) &&& 0xF00F = 0x8004 ∧ decodeWord false 0x8F14 = some (.addReg 0xF 0x1) := by decide

theorem test_decode_sub :
    (0x8125 : Word) &&& 0xF00F = 0x8005 ∧ decodeWord false 0x8125 = some (.sub 0x1 0x2) := by decide

theorem test_decode_shr :
    (0x8AB6 : Word) &&& 0xF00F = 0x8006 ∧ decodeWord false 0x8AB6 = some (.shr 0xA 0xB) := by decide

theorem test_decode_subn :
    (0x8127 : Word) &&& 0xF00F = 0x8007 ∧ decodeWord false 0x8127 = some (.subn 0x1 0x2) := by decide

theorem test_decode_shl :
    (0x812E : Word) &&& 0xF00F = 0x800E ∧ decodeWord false 0x812E = some (.shl 0x1 0x2) := by decide

theorem test_decode_sneReg :
    (0x9120 : Word) &&& 0xF00F = 0x9000 ∧ decodeWord false 0x9120 = some (.sneReg 0x1 0x2) := by decide

theorem test_decode_ldI :
    (0xA300 : Word) &&& 0xF000 = 0xA000 ∧ decodeWord false 0xA300 = some (.ldI 0x300) := by decide

theorem test_decode_jpV0 :
    (0xB201 : Word) &&& 0xF000 = 0xB000 ∧ decodeWord false 0xB201 = some (.jpV0 0x201) := by decide

theorem test_decode_rnd :
    (0xC30F : Word) &&& 0xF000 = 0xC000 ∧ decodeWord false 0xC30F = some (.rnd 0x3 0x0F) := by decide

theorem test_decode_drw :
    (0xDABC : Word) &&& 0xF000 = 0xD000 ∧ decodeWord false 0xDABC = some (.drw 0xA 0xB 0xC) := by decide

theorem test_decode_skp :
    (0xE19E : Word) &&& 0xF0FF = 0xE09E ∧ decodeWord false 0xE19E = some (.skp 0x1) := by decide

theorem test_decode_sknp :
    (0xE1A1 : Word) &&& 0xF0FF = 0xE0A1 ∧ decodeWord false 0xE1A1 = some (.sknp 0x1) := by decide

theorem test_decode_ldVxDt :
    (0xF507 : Word) &&& 0xF0FF = 0xF007 ∧ decodeWord false 0xF507 = some (.ldVxDt 0x5) := by decide

theorem test_decode_ldVxK :
    (0xF40A : Word) &&& 0xF0FF = 0xF00A ∧ decodeWord false 0xF40A = some (.ldVxK 0x4) := by decide

theorem test_decode_ldDtVx :
    (0xF115 : Word) &&& 0xF0FF = 0xF015 ∧ decodeWord false 0xF115 = some (.ldDtVx 0x1) := by decide

theorem test_decode_ldStVx :
    (0xF118 : Word) &&& 0xF0FF = 0xF018 ∧ decodeWord false 0xF118 = some (.ldStVx 0x1) := by decide

theorem test_decode_addI :
    (0xF21E : Word) &&& 0xF0FF = 0xF01E ∧ decodeWord false 0xF21E = some (.addI 0x2) := by decide

theorem test_decode_ldF :
    (0xF229 : Word) &&& 0xF0FF = 0xF029 ∧ decodeWord false 0xF229 = some (.ldF 0x2) := by decide

theorem test_decode_ldB :
    (0xFA33 : Word) &&& 0xF0FF = 0xF033 ∧ decodeWord false 0xFA33 = some (.ldB 0xA) := by decide

theorem test_decode_stRegs :
    (0xF255 : Word) &&& 0xF0FF = 0xF055 ∧ decodeWord false 0xF255 = some (.stRegs 0x2) := by decide

theorem test_decode_ldRegs :
    (0xF165 : Word) &&& 0xF0FF = 0xF065 ∧ decodeWord false 0xF165 = some (.ldRegs 0x1) := by decide

/-- T-DEC-1, 9, 10, 13, 14, 16, 18, 20, 22, 23: illegal in either mode. -/
theorem test_decode_illegal (strict : Bool) :
    [(0x0000 : Word), 0x0123, 0x00E1, 0x8008, 0x800D, 0x800F, 0x9001, 0xE19F, 0xF000, 0xF01F].map (decodeWord strict) =
      List.replicate 10 none := by
  cases strict <;> rfl

/-- T-DEC-6, 8, 12: illegal only when STRICT_DECODE. -/
theorem test_decode_strict :
    (decodeWord false 0x0AE0 = some .cls ∧ decodeWord true 0x0AE0 = none) ∧
    (decodeWord false 0x0FEE = some .ret ∧ decodeWord true 0x0FEE = none) ∧
    (decodeWord false 0x5121 = some (.seReg 0x1 0x2) ∧ decodeWord true 0x5121 = none) := by decide

/-- R61: the byte at the lower address is the high one; a lone byte is no instruction. -/
theorem test_decode_bytes :
    decode false [0x60, 0x05, 0x12] = .ok (.ldImm 0x0 0x05, [0x12]) ∧ decode false [0x60] = .error .truncated ∧
    decode false [0xFF, 0xFF] = .error (.unimplemented 0xFFFF) := ⟨rfl, rfl, rfl⟩

/-- R93: an assembler emits zero for each `?` bit. -/
theorem test_encode : encode (.drw 0xA 0xB 0xC) = 0xDABC ∧ encode .ret = 0x00EE ∧ encode (.seReg 0x1 0x2) = 0x5120 := by decide

/-- The first step after reset runs the placed instruction. -/
theorem test_fetch_word :
    decodeTableWord 16 0x6005 = some (.ldImm 0x0 0x05) ∧
    after (State.reset.withFetchWord 16 0x6005) (fun t => t.readV 0x0) = some 0x05 := by decide

/-! ## One step of each instruction (95_test_vectors.md section 3) -/

/-- T-DISP-2. -/
theorem test_cls_sets_dirty :
    after (put 0x00E0 base)
      (fun t => (t.out.renderNotify, t.dirty, t.pc)) = some (true, false, 0x202) := by decide

/-- T-DISP-1, one pixel. -/
theorem test_cls_clears :
    after (put 0x00E0 (base.setScreen (FrameBuffer.setPixel blankScreen 31 63 true)))
      (fun t => FrameBuffer.pixel t.fb 31 63) = some false := by decide

/-- T-CF-7. -/
theorem test_ret :
    after (put 0x00EE { base with sp := 2, stack := (base.stack.set 1 0x2FE).set 0 0x204 })
      (fun t => (t.pc, t.sp.val, t.stack[1])) = some (0x300, 1, 0x2FE) := by decide

/-- T-CF-8. -/
theorem test_ret_empty :
    faultIs (put 0x00EE base) .stackUnderflow 0x00EE := by
  unfold faultIs
  decide

/-- T-CF-3. -/
theorem test_jp :
    after (put 0x1FFF base)
      (fun t => t.pc) = some 0xFFF := by decide

/-- T-CF-5. -/
theorem test_call :
    after (put 0x2300 { base with sp := 15 })
      (fun t => (t.pc, t.sp.val, t.stack[15])) = some (0x300, 16, 0x200) := by decide

/-- T-CF-6. -/
theorem test_call_full :
    faultIs (put 0x2300 { base with sp := 16 }) .stackOverflow 0x2300 := by
  unfold faultIs
  decide

/-- T-CF-10. -/
theorem test_seImm :
    after (put 0x3312 (base.writeV 0x3 0x12))
      (fun t => t.pc) = some 0x204 := by decide

/-- T-CF-11. -/
theorem test_seImm_not :
    after (put 0x3312 (base.writeV 0x3 0x13))
      (fun t => t.pc) = some 0x202 := by decide

/-- T-CF-12. -/
theorem test_sneImm :
    after (put 0x4312 (base.writeV 0x3 0x12))
      (fun t => t.pc) = some 0x202 := by decide

/-- T-CF-13. -/
theorem test_sneImm_skips :
    after (put 0x4312 (base.writeV 0x3 0x13))
      (fun t => t.pc) = some 0x204 := by decide

/-- T-CF-15. -/
theorem test_seReg :
    after (put 0x5120 ((base.writeV 0x1 0x07).writeV 0x2 0x08))
      (fun t => t.pc) = some 0x202 := by decide

/-- T-CF-17. -/
theorem test_seReg_low_nibble :
    after (put 0x5127 ((base.writeV 0x1 0x07).writeV 0x2 0x07))
      (fun t => t.pc) = some 0x204 := by decide

/-- T-CF-19. -/
theorem test_sneReg :
    after (put 0x9120 ((base.writeV 0x1 0x07).writeV 0x2 0x08))
      (fun t => t.pc) = some 0x204 := by decide

/-- T-CF-21. -/
theorem test_sneReg_same :
    after (put 0x9550 base)
      (fun t => t.pc) = some 0x202 := by decide

/-- T-CF-24. -/
theorem test_jpV0 :
    after (put 0xBFFF (base.writeV 0x0 0xFF))
      (fun t => t.pc) = some 0x10FE := by decide

/-- T-ALU-2. -/
theorem test_ldImm :
    after (put 0x6FAB (base.writeV 0xF 0x01))
      (fun t => t.readV 0xF) = some 0xAB := by decide

/-- T-ALU-3. -/
theorem test_addImm :
    after (put 0x7101 ((base.writeV 0x1 0xFF).writeV 0xF 0x07))
      (fun t => (t.readV 0x1, t.readV 0xF)) = some (0x00, 0x07) := by decide

/-- T-ALU-6. -/
theorem test_ldReg :
    after (put 0x8120 ((base.writeV 0x2 0x33).writeV 0xF 0x55))
      (fun t => (t.readV 0x1, t.readV 0xF)) = some (0x33, 0x55) := by decide

/-- T-ALU-7. -/
theorem test_orReg :
    after (put 0x8121 (((base.writeV 0x1 0x0F).writeV 0x2 0xF0).writeV 0xF 0x55))
      (fun t => (t.readV 0x1, t.readV 0xF)) = some (0xFF, 0x55) := by decide

/-- T-ALU-8. -/
theorem test_andReg :
    after (put 0x8122 (((base.writeV 0x1 0x3C).writeV 0x2 0x0F).writeV 0xF 0x55))
      (fun t => (t.readV 0x1, t.readV 0xF)) = some (0x0C, 0x55) := by decide

/-- T-ALU-9. -/
theorem test_xorReg :
    after (put 0x8123 (((base.writeV 0x1 0x3C).writeV 0x2 0x0F).writeV 0xF 0x55))
      (fun t => (t.readV 0x1, t.readV 0xF)) = some (0x33, 0x55) := by decide

/-- T-ALU-14. -/
theorem test_addReg_flag_last :
    after (put 0x8F14 ((base.writeV 0x1 0x02).writeV 0xF 0xFF))
      (fun t => (t.readV 0x1, t.readV 0xF)) = some (0x02, 0x01) := by decide

/-- T-ALU-15. -/
theorem test_addReg_reads_vf :
    after (put 0x81F4 ((base.writeV 0x1 0x02).writeV 0xF 0xFF))
      (fun t => (t.readV 0x1, t.readV 0xF)) = some (0x01, 0x01) := by decide

/-- T-ALU-17. -/
theorem test_sub_borrow :
    after (put 0x8125 ((base.writeV 0x2 0x01).writeV 0xF 0x01))
      (fun t => (t.readV 0x1, t.readV 0xF)) = some (0xFF, 0x00) := by decide

/-- T-ALU-18. -/
theorem test_sub_equal :
    after (put 0x8125 ((base.writeV 0x1 0x05).writeV 0x2 0x05))
      (fun t => (t.readV 0x1, t.readV 0xF)) = some (0x00, 0x01) := by decide

/-- T-ALU-23. -/
theorem test_shr :
    after (put 0x8126 ((base.writeV 0x1 0x04).writeV 0x2 0x07))
      (fun t => (t.readV 0x1, t.readV 0xF)) = some (0x02, 0x00) := by decide

/-- T-ALU-23 with SHIFT_SOURCE = VY. -/
theorem test_shr_vy :
    after (put 0x8126 (((withCfg { defaultCfg with shiftSource := .vy } base).writeV 0x1 0x04).writeV 0x2 0x07))
      (fun t => (t.readV 0x1, t.readV 0xF)) = some (0x03, 0x01) := by decide

/-- T-ALU-25. -/
theorem test_subn :
    after (put 0x8127 (((base.writeV 0x1 0x02).writeV 0x2 0x01).writeV 0xF 0x01))
      (fun t => (t.readV 0x1, t.readV 0xF)) = some (0xFF, 0x00) := by decide

/-- T-ALU-26. -/
theorem test_subn_same :
    after (put 0x8117 (base.writeV 0x1 0x42))
      (fun t => (t.readV 0x1, t.readV 0xF)) = some (0x00, 0x01) := by decide

/-- T-ALU-28. -/
theorem test_shl :
    after (put 0x810E ((base.writeV 0x1 0x7F).writeV 0xF 0x01))
      (fun t => (t.readV 0x1, t.readV 0xF)) = some (0xFE, 0x00) := by decide

/-- T-ALU-29. -/
theorem test_shl_flag_last :
    after (put 0x8F0E (base.writeV 0xF 0x80))
      (fun t => t.readV 0xF) = some 0x01 := by decide

/-- T-ALU-30. -/
theorem test_rnd :
    after (put 0xC30F { base with rand := 0xA5 })
      (fun t => t.readV 0x3) = some 0x05 := by decide

/-- T-DISP-8, its two pixels. -/
theorem test_drw_wraps :
    after (put 0xD012 { ((base.writeV 0x0 0x45).writeV 0x1 0x3F) with i := 0x300, mem := [(0x300, 0x80), (0x301, 0x01)] })
      (fun t => (FrameBuffer.pixel t.fb 31 5, FrameBuffer.pixel t.fb 0 12, FrameBuffer.pixel t.fb 0 5, t.readV 0xF)) = some (true, true, false, 0x00) := by decide

/-- T-DISP-11. -/
theorem test_drw_out_of_memory :
    faultIs (put 0xD012 { base with i := 0xFFF }) .memoryOutOfRange 0xD012 := by
  unfold faultIs
  decide

/-- T-KEY-1. -/
theorem test_skp :
    after (put 0xE29E (press [7] (base.writeV 0x2 0x07)))
      (fun t => t.pc) = some 0x204 := by decide

/-- T-KEY-5. -/
theorem test_skp_no_key :
    faultIs (put 0xE29E (press [0] (base.writeV 0x2 0x10))) .keyIndexOutOfRange 0xE29E := by
  unfold faultIs
  decide

/-- T-KEY-3. -/
theorem test_sknp :
    after (put 0xE2A1 (press [7] (base.writeV 0x2 0x07)))
      (fun t => t.pc) = some 0x202 := by decide

/-- T-KEY-4. -/
theorem test_sknp_skips :
    after (put 0xE2A1 (base.writeV 0x2 0x07))
      (fun t => t.pc) = some 0x204 := by decide

/-- T-KEY-14. -/
theorem test_ldVxDt_before_tick :
    after (put 0xF507 { base with dt := 0x3C, now := 16666667 })
      (fun t => (t.readV 0x5, t.dt, t.lastTick)) = some (0x3C, 0x3B, 16666667) := by decide

/-- T-KEY-7. -/
theorem test_ldVxK_holds :
    after (put 0xF40A base)
      (fun t => (t.pc, t.out.status)) = some (0x200, .cont) := by decide

/-- T-KEY-8. -/
theorem test_ldVxK_lowest :
    after (put 0xF40A (press [9, 3] base))
      (fun t => (t.readV 0x4, t.pc)) = some (0x03, 0x202) := by decide

/-- T-KEY-11. -/
theorem test_ldDtVx :
    after (put 0xF115 (base.writeV 0x1 0x3C))
      (fun t => t.dt) = some 0x3C := by decide

/-- T-KEY-12. -/
theorem test_ldStVx :
    after (put 0xF118 (base.writeV 0x1 0x02))
      (fun t => (t.st, t.out.soundActive)) = some (0x02, true) := by decide

/-- T-KEY-13. -/
theorem test_ldStVx_ticks :
    after (put 0xF118 { (base.writeV 0x1 0x01) with now := 16666667 })
      (fun t => (t.st, t.out.soundActive)) = some (0x00, false) := by decide

/-- T-MEM-2. -/
theorem test_ldI :
    after (put 0xAFFF base)
      (fun t => t.i) = some 0xFFF := by decide

/-- T-MEM-4. -/
theorem test_addI_wraps :
    after (put 0xF21E { (base.writeV 0x2 0x01) with i := 0xFFFF })
      (fun t => (t.i, t.readV 0xF)) = some (0x0000, 0x01) := by decide

/-- T-MEM-6. -/
theorem test_addI_reads_vf :
    after (put 0xFF1E { (base.writeV 0xF 0x05) with i := 0x100 })
      (fun t => (t.i, t.readV 0xF)) = some (0x105, 0x00) := by decide

/-- T-MEM-9. -/
theorem test_ldF :
    after (put 0xF029 (base.writeV 0x0 0x1A))
      (fun t => t.i) = some 0x032 := by decide

/-- T-MEM-13. -/
theorem test_ldB :
    after (put 0xFA33 { (base.writeV 0xA 0x7B) with i := 0xFFD })
      (fun t => (t.memRead 0xFFD, t.memRead 0xFFE, t.memRead 0xFFF)) = some (0x01, 0x02, 0x03) := by decide

/-- T-MEM-14. -/
theorem test_ldB_out_of_memory :
    faultIs (put 0xFA33 { (base.writeV 0xA 0x7B) with i := 0xFFE }) .memoryOutOfRange 0xFA33 := by
  unfold faultIs
  decide

/-- T-MEM-16. -/
theorem test_stRegs_index_bounds :
    after (put 0xF055 { ((base.writeV 0x0 0xAA).writeV 0x1 0xBB) with i := 0x400 })
      (fun t => (t.memRead 0x400, t.memRead 0x401, t.i)) = some (0xAA, 0x00, 0x400) := by decide

/-- T-MEM-18. -/
theorem test_stRegs_out_of_memory :
    faultIs (put 0xFF55 { (base.writeV 0xF 0xEE) with i := 0xFF1 }) .memoryOutOfRange 0xFF55 := by
  unfold faultIs
  decide

/-- T-MEM-22. -/
theorem test_ldRegs_font :
    after (put 0xF065 base)
      (fun t => t.readV 0x0) = some 0xF0 := by decide

/-- T-MEM-21. -/
theorem test_ldRegs_out_of_memory :
    faultIs (put 0xF165 { base with i := 0xFFF }) .memoryOutOfRange 0xF165 := by
  unfold faultIs
  decide

/-! ## Step, tick and load -/

/-- T-TIM-2, one unit short of a tick. -/
theorem test_tick_short :
    after (put 0x6000 { base with dt := 5, st := 5, now := 16666666 })
      (fun t => (t.dt, t.st, t.lastTick)) = some (5, 5, 0) := by decide

/-- T-TIM-5, one tick for a whole second. -/
theorem test_tick_once :
    after (put 0x6000 { base with dt := 5, now := 1000000000 })
      (fun t => (t.dt, t.st, t.lastTick)) = some (4, 0, 1000000000) := by decide

/-- T-TIM-3: exact equality gives no tick. -/
theorem test_tick_equal :
    State.tickDue { base with cfg := { defaultCfg with timeUnitsPerSecond := 6000 }, now := 100 } = false ∧
    State.tickDue { base with cfg := { defaultCfg with timeUnitsPerSecond := 6000 }, now := 101 } = true := by decide

/-- T-STEP-1: the fetch at 0xFFF needs 0x1000. -/
theorem test_fetch_fault :
    after (top { base with pc := 0xFFF, mem := [(0xFFF, 0x12)] }) (fun t => t.status) =
      some (.faulted ⟨.memoryOutOfRange, 0xFFF, none⟩) := by decide

/-- T-STEP-3: the word 0x0000 is illegal. -/
theorem test_illegal_word : faultIs base .unimplementedOpcode 0x0000 := by unfold faultIs; decide

/-- T-LOAD-3: the empty image halts in the first step. -/
theorem test_empty_image : after State.reset (fun t => (t.status, t.out.status)) = some (.halted, .halted) := by decide

/-- T-LOAD-4: the font, its last glyph and the gap after it. -/
theorem test_font :
    [0, 1, 2, 3, 4].map State.reset.memRead = [0xF0, 0x90, 0x90, 0x90, 0xF0] ∧
    [0x4B, 0x4C, 0x4D, 0x4E, 0x4F].map State.reset.memRead = [0xF0, 0x80, 0xF0, 0x80, 0x80] ∧
    State.reset.memRead 0x050 = 0 ∧ State.reset.memRead 0x1FF = 0 := by decide

/-- Writing what an unlisted address reads as removes its cell. -/
theorem test_memory_canonical :
    ((base.memWrite 0x300 0x12).memWrite 0x300 0x00).mem = [] ∧ (base.memWrite 0x000 0xF0).mem = [] ∧
    ((base.memWrite 0x301 0x01).memWrite 0x300 0x02).mem = [(0x300, 0x02), (0x301, 0x01)] ∧
    Memory.wf defaultCfg [(0x301, 0x01), (0x300, 0x02)] = false ∧ Memory.wf defaultCfg [(0x300, 0x00)] = false := by decide

/-! ## The hypotheses of the statements can be met -/

/-- A machine about to run LD V0, 0x05 with one byte after it in memory. -/
def running : State := put 0x6005 base

/-- The state Execute of LD V0, 0x05 leaves. -/
def ran : State := (running.writeV 0x0 0x05).advance

theorem witness_runsNext : runsNext running (.ldImm 0x0 0x05) := ⟨rfl, by decide, 0x6005, by decide, by decide⟩

theorem witness_exec : exec (.ldImm 0x0 0x05) running = .next ran ∧ ran.status = .run := ⟨rfl, rfl⟩

/-- A machine about to run RET on the empty stack. -/
def underflow : State := put 0x00EE base

theorem witness_runsNext_fault : runsNext underflow .ret ∧
    ∃ r, exec .ret underflow = .next (underflow.raise .stackUnderflow) ∧
      (underflow.raise .stackUnderflow).status = .faulted r :=
  ⟨⟨rfl, by decide, 0x00EE, by decide, by decide⟩, _, rfl, rfl⟩

/-- The first state of a run that has not halted satisfies the invariant. -/
theorem witness_Inv : running.Inv where
  cfgOk := by decide
  memOk := by decide
  clean := rfl
  timeOk := Nat.le_refl 0
  endOk := by decide
  stackOk := fun k _ h => absurd h (Nat.not_lt_zero k)
  pcOk := by decide
  haltOk := fun h => (by cases h)
  faultOk := fun _ h => (by cases h)
  outOk := rfl
  soundOk := rfl

/-- IllegalWordsAreFatal: the first and last words of the first two clauses. -/
theorem witness_illegal_low : ∀ w ∈ [(0x0000 : Word), 0x00E1, 0x00EF, 0x0FFF, 0x8008, 0x800D, 0x800F],
    illegal false (Fields.ofWord w) := by
  intro w h
  simp only [List.mem_cons, List.not_mem_nil, or_false] at h
  rcases h with rfl | rfl | rfl | rfl | rfl | rfl | rfl <;> simp [illegal, Fields.ofWord]

/-- IllegalWordsAreFatal: the first and last words of the other clauses. -/
theorem witness_illegal_high : ∀ w ∈ [(0x9001 : Word), 0x900F, 0xE09D, 0xE0A2, 0xF006, 0xFFFF],
    illegal false (Fields.ofWord w) := by
  intro w h
  simp only [List.mem_cons, List.not_mem_nil, or_false] at h
  rcases h with rfl | rfl | rfl | rfl | rfl | rfl <;> simp [illegal, Fields.ofWord]

/-- IllegalWordsAreFatal: words illegal only when STRICT_DECODE. -/
theorem witness_illegal_strict : ∀ w ∈ [(0x01E0 : Word), 0x0FEE, 0x5001, 0x500F],
    illegal true (Fields.ofWord w) ∧ ¬illegal false (Fields.ofWord w) := by
  intro w h
  simp only [List.mem_cons, List.not_mem_nil, or_false] at h
  rcases h with rfl | rfl | rfl | rfl <;> simp [illegal, Fields.ofWord]

/-- IllegalWordsAreFatal: a state that is about to run an illegal word. -/
theorem witness_IllegalWordsAreFatal :
    (put 0xFFFF base).status = .run ∧ (put 0xFFFF base).pc.toNat < (put 0xFFFF base).endAddr.toNat ∧
    (put 0xFFFF base).fetch = some 0xFFFF := by decide

theorem witness_FetchIsBigEndianAndBounded :
    base.cfg.memSize ≤ 0xFFF + 1 ∧ 0xFFE + 1 < base.cfg.memSize ∧
    (top { base with pc := 0xFFF }).status = .run ∧
    (top { base with pc := 0xFFF }).pc.toNat < (top { base with pc := 0xFFF }).endAddr.toNat ∧
    (top { base with pc := 0xFFF }).cfg.memSize ≤ (top { base with pc := 0xFFF }).pc.toNat + 1 := by decide

theorem witness_CompletionHalts :
    (State.reset.status = .run ∧ State.reset.endAddr.toNat ≤ State.reset.pc.toNat) ∧
    (running.status = .run ∧ running.pc.toNat < running.endAddr.toNat ∧ ∃ t, step running = .next t) ∧
    load defaultCfg [0x60, 0x05] 0 =
      .ok (State.afterLoad defaultCfg (Memory.writeBytes defaultCfg [] 0x200 [0x60, 0x05]) 2 0) :=
  ⟨by decide, ⟨rfl, by decide, _, rfl⟩, rfl⟩

theorem witness_StoppedMachineStaysStopped :
    State.reset.halt.status = .halted ∧
    (underflow.raise .stackUnderflow).status = .faulted ⟨.stackUnderflow, 0x200, some 0x00EE⟩ := by decide

/-- FaultEntryIsPrecise, TimersFreezeWhenStopped, RenderNotification's second clause: a step that faults. -/
theorem witness_FaultEntryIsPrecise :
    underflow.status = .run ∧ step underflow = .next (underflow.stop .stackUnderflow) ∧
    (underflow.stop .stackUnderflow).status = .faulted ⟨.stackUnderflow, 0x200, some 0x00EE⟩ :=
  ⟨rfl, rfl, by decide⟩

/-- FatalErrorsInOrder: a step that ends in each of its clauses. -/
theorem witness_FatalErrorsInOrder :
    after (top { base with pc := 0xFFF }) (fun t => t.status) = some (.faulted ⟨.memoryOutOfRange, 0xFFF, none⟩) ∧
    faultIs (put 0xFFFF base) .unimplementedOpcode 0xFFFF ∧
    faultIs (put 0x2300 { base with sp := 16 }) .stackOverflow 0x2300 ∧
    faultIs underflow .stackUnderflow 0x00EE ∧
    faultIs (put 0xD01F { base with i := 0xFF2 }) .memoryOutOfRange 0xD01F ∧
    faultIs (put 0xF033 { base with i := 0xFFE }) .memoryOutOfRange 0xF033 ∧
    faultIs (put 0xF055 { base with i := 0x1000 }) .memoryOutOfRange 0xF055 ∧
    faultIs (put 0xF065 { base with i := 0x1000 }) .memoryOutOfRange 0xF065 ∧
    faultIs (put 0xE09E (base.writeV 0x0 0x10)) .keyIndexOutOfRange 0xE09E ∧
    faultIs (put 0xE0A1 (base.writeV 0x0 0x10)) .keyIndexOutOfRange 0xE0A1 := by unfold faultIs; decide

theorem witness_TimerTick :
    tickCondition { base with now := 16666667 } ∧ ¬tickCondition { base with now := 16666666 } := by
  unfold tickCondition
  decide

/-- RenderNotification's first clause: a step that runs CLS. -/
theorem witness_RenderNotification :
    (put 0x00E0 base).dirty = false ∧ runsNext (put 0x00E0 base) .cls ∧
    ∃ t u, exec .cls (put 0x00E0 base) = .next t ∧ t.status = .run ∧ step (put 0x00E0 base) = .next u :=
  ⟨rfl, ⟨rfl, by decide, 0x00E0, by decide, by decide⟩, _, _, rfl, rfl, rfl⟩

/-- ContinueThenHalted: the instruction at the end of the image. -/
theorem witness_ContinueThenHalted :
    runsNext { running with endAddr := 0x202 } (.ldImm 0x0 0x05) ∧
    after { running with endAddr := 0x202 } (fun u => decide (u.endAddr.toNat ≤ u.pc.toNat)) = some true :=
  ⟨⟨rfl, by decide, 0x6005, by decide, by decide⟩, by decide⟩

/-- LoadLeavesState: the largest image that fits and the smallest that does not. -/
theorem witness_LoadLeavesState :
    defaultCfg.loadAddr ≤ defaultCfg.memSize ∧
    defaultCfg.memSize - defaultCfg.loadAddr < (List.replicate 0xE01 (0 : Byte)).length ∧
    (List.replicate 0xE00 (0 : Byte)).length ≤ defaultCfg.memSize - defaultCfg.loadAddr := by
  simp only [List.length_replicate]
  decide

/-- EmptyImageHalts, LoadGivesInvariant. -/
theorem witness_LoadGivesInvariant : defaultCfg.wellFormed = true ∧ ∃ s, load defaultCfg [0x60, 0x05] 0 = .ok s :=
  ⟨by decide, _, rfl⟩

/-- StepKeepsInvariant, SoundActive, EndAndConfigurationFixed. -/
theorem witness_StepKeepsInvariant : running.Inv ∧ ∃ t, step running = .next t := ⟨witness_Inv, _, rfl⟩

theorem witness_RegistersWrittenAsListed :
    exec (.ldImm 0x0 0x05) running = .next ran ∧ ¬writesRegister running 0x1 (.ldImm 0x0 0x05) :=
  ⟨rfl, by unfold writesRegister; decide⟩

/-- MemoryFrame: an instruction that stores, one that does not, and one that raises a fatal error. -/
theorem witness_MemoryFrame :
    Memory.wf running.cfg running.mem = true ∧ running.status = .run ∧
    (∃ t, exec (.stRegs 0x1) { running with i := 0x400 } = .next t) ∧
    stores { running with i := 0x400 } (.stRegs 0x1) = some (0x400, 2) ∧ ¬(0x400 ≤ 0x402 ∧ 0x402 < 0x400 + 2) ∧
    stores running (.ldImm 0x0 0x05) = none ∧
    ∃ t, exec (.ldB 0x0) { running with i := 0xFFE } = .next t ∧ t.status ≠ .run :=
  ⟨by decide, rfl, ⟨_, rfl⟩, by decide, by decide, rfl, _, rfl, by decide⟩

theorem witness_AddressRegisterFrame :
    exec (.ldImm 0x0 0x05) running = .next ran ∧ ¬writesI running (.ldImm 0x0 0x05) ∧
    ¬writesI running (.stRegs 0x0) :=
  ⟨rfl, fun h => h, by unfold writesI; decide⟩

theorem witness_StackFrame :
    exec (.ldImm 0x0 0x05) running = .next ran ∧ (∀ nnn, Instr.ldImm 0x0 0x05 ≠ .call nnn) ∧
    Instr.ldImm 0x0 0x05 ≠ .ret ∧
    (∃ t, exec (.call 0x300) { running with sp := 1 } = .next t) ∧ 0 < ({ running with sp := 1 } : State).sp.val :=
  ⟨rfl, fun _ => by simp, by simp, ⟨_, rfl⟩, by decide⟩

/-- ScreenFrame, ControlStateFrame, HostInputsReachOnlyTheirInstructions. -/
theorem witness_ScreenFrame :
    exec (.ldImm 0x0 0x05) running = .next ran ∧ Instr.ldImm 0x0 0x05 ≠ .cls ∧
    (∀ x y n, Instr.ldImm 0x0 0x05 ≠ .drw x y n) ∧ (∀ x, Instr.ldImm 0x0 0x05 ≠ .ldDtVx x) ∧
    (∀ x, Instr.ldImm 0x0 0x05 ≠ .ldStVx x) ∧ (∀ x kk, Instr.ldImm 0x0 0x05 ≠ .rnd x kk) ∧
    (∀ x, Instr.ldImm 0x0 0x05 ≠ .skp x) ∧ (∀ x, Instr.ldImm 0x0 0x05 ≠ .sknp x) ∧
    ∀ x, Instr.ldImm 0x0 0x05 ≠ .ldVxK x :=
  ⟨rfl, by simp, by simp, by simp, by simp, by simp, by simp, by simp, by simp⟩

/-- ProgramCounterWrites: an instruction that completes and one that raises a fatal error. -/
theorem witness_ProgramCounterWrites :
    running.status = .run ∧ exec (.ldImm 0x0 0x05) running = .next ran ∧ ran.status = .run ∧
    underflow.status = .run ∧ exec .ret underflow = .next (underflow.raise .stackUnderflow) ∧
    (underflow.raise .stackUnderflow).status ≠ .run :=
  ⟨rfl, rfl, rfl, rfl, rfl, by decide⟩

/-- ReadAfterWrite, FetchSeesStores, CanonicalMemoryIsExtensional. -/
theorem witness_ReadAfterWrite :
    Memory.wf running.cfg running.mem = true ∧ 0xFFF < running.cfg.memSize ∧ 0xFFE + 1 < running.cfg.memSize ∧
    running.mem ≠ [] := by decide

/-- A running state past a small END, for the statements that say which targets halt. -/
theorem witness_haltsIfPastEnd :
    ({ base with pc := 0x300 } : State).status = .run ∧ ({ base with pc := 0x300 } : State).endAddr = base.endAddr ∧
    base.endAddr.toNat ≤ (0x300 : Word).toNat := by decide

/-- JumpSetsPc, JumpIndexedAddsV0: a jump to itself, and the largest sum. -/
theorem witness_JumpIndexedAddsV0 :
    base.pc.toNat = (0x200 : Addr12).toNat ∧ base.endAddr.toNat ≤ 0x1000 ∧
    0x1000 ≤ (0xFFF : Addr12).toNat + ((base.writeV 0x0 0xFF).readV 0x0).toNat := by decide

theorem witness_CallPushesOwnAddress :
    ({ base with sp := 15 } : State).sp.val < 16 ∧ ({ base with sp := 16 } : State).sp.val = 16 := by decide

theorem witness_ReturnResumesAfterCall :
    0 < ({ base with sp := 1 } : State).sp.val ∧ base.sp.val = 0 ∧ running.Inv := ⟨by decide, by decide, witness_Inv⟩

theorem witness_CallThenReturn :
    running.sp.val < 16 ∧ ∃ t v, exec (.call 0x300) running = .next t ∧ exec .ret t = .next v :=
  ⟨by decide, _, _, rfl, rfl⟩

theorem witness_SkipsOnRegisters :
    (Fields.ofWord 0x5121).c = 0x5 ∧ (Fields.ofWord 0x5121).n ≠ 0 ∧ (Fields.ofWord 0x912F).c = 0x9 ∧
    (Fields.ofWord 0x912F).n ≠ 0 := by decide

/-- ShiftsByOne: the operand by each SHIFT_SOURCE. -/
theorem witness_ShiftsByOne :
    (match (base.writeV 0x1 0x81).cfg.shiftSource with
      | .vx => ((base.writeV 0x1 0x81).readV 0x1).toNat
      | .vy => ((base.writeV 0x1 0x81).readV 0x2).toNat) = 0x81 ∧
    (match (withCfg { defaultCfg with shiftSource := .vy } (base.writeV 0x1 0x81)).cfg.shiftSource with
      | .vx => ((base.writeV 0x1 0x81).readV 0x1).toNat
      | .vy => ((base.writeV 0x1 0x81).readV 0x2).toNat) = 0 := by decide

/-- DrawSprite: no row with I anywhere, the last byte of memory, and one byte past it. -/
theorem witness_DrawSprite :
    ((0 : Nibble) = 0 ∨ ({ base with i := 0xFFFF } : State).i.toNat + (0 : Nibble).toNat - 1 < base.cfg.memSize) ∧
    ({ base with i := 0xFFF } : State).i.toNat + (1 : Nibble).toNat - 1 < base.cfg.memSize ∧
    (2 : Nibble) ≠ 0 ∧ base.cfg.memSize ≤ ({ base with i := 0xFFF } : State).i.toNat + (2 : Nibble).toNat - 1 := by decide

theorem witness_SkipsOnKey :
    ((base.writeV 0x0 0x0F).readV 0x0).toNat < 16 ∧ 16 ≤ ((base.writeV 0x0 0x10).readV 0x0).toNat := by decide

theorem witness_TimerMoves :
    runsNext (put 0xF507 base) (.ldVxDt 0x5) ∧ runsNext (put 0xF115 { base with now := 16666667 }) (.ldDtVx 0x1) ∧
    tickCondition (put 0xF115 { base with now := 16666667 }) ∧ runsNext (put 0xF118 base) (.ldStVx 0x1) ∧
    ¬tickCondition (put 0xF118 base) :=
  ⟨⟨rfl, by decide, 0xF507, by decide, by decide⟩, ⟨rfl, by decide, 0xF115, by decide, by decide⟩,
    by unfold tickCondition; decide, ⟨rfl, by decide, 0xF118, by decide, by decide⟩, by unfold tickCondition; decide⟩

theorem witness_WaitForKey :
    (∀ (k : Nat) (h : k < 16), ((put 0xF40A base).key[k]'h) = false) ∧ runsNext (put 0xF40A base) (.ldVxK 0x4) ∧
    ((press [9, 15] base).key[9]'(by decide)) = true ∧
    ∀ (j : Nat) (hj : j < 16), j < 9 → ((press [9, 15] base).key[j]'hj) = false :=
  ⟨by decide, ⟨rfl, by decide, 0xF40A, by decide, by decide⟩, by decide, by decide⟩

theorem witness_LoadGlyphAddress : base.cfg.fontAddressable = true := by decide

/-- StoreBcd, StoreRegisters, LoadRegisters: the last address that fits and the first that does not. -/
theorem witness_StoreBcd :
    Memory.wf base.cfg base.mem = true ∧ ({ base with i := 0xFFD } : State).i.toNat + 2 < base.cfg.memSize ∧
    base.cfg.memSize ≤ ({ base with i := 0xFFE } : State).i.toNat + 2 ∧
    ({ base with i := 0xFF0 } : State).i.toNat + (0xF : Nibble).toNat < base.cfg.memSize ∧
    base.cfg.memSize ≤ ({ base with i := 0xFF1 } : State).i.toNat + (0xF : Nibble).toNat := by decide

end Sys2Proof.Tests
end

/-! The fields of a word and the opcode map (30_encoding.md R81 to R90): the fields by arithmetic, each row's match and mask
as a test on the fields, and the words that no row and no dispatch entry takes. -/

namespace Sys2Proof

open Sys2Proof.Machine Sys2Proof.Claims

/-! ## Fields by arithmetic (R81) -/

namespace Fields

theorem ofWord_c_toNat (w : Word) : (ofWord w).c.toNat = w.toNat / 4096 := by
  have := w.isLt
  simp only [ofWord, BitVec.extractLsb'_toNat, Nat.shiftRight_eq_div_pow]
  omega

theorem ofWord_x_toNat (w : Word) : (ofWord w).x.toNat = w.toNat / 256 % 16 := by
  simp [ofWord, BitVec.extractLsb'_toNat, Nat.shiftRight_eq_div_pow]

theorem ofWord_y_toNat (w : Word) : (ofWord w).y.toNat = w.toNat / 16 % 16 := by
  simp [ofWord, BitVec.extractLsb'_toNat, Nat.shiftRight_eq_div_pow]

theorem ofWord_n_toNat (w : Word) : (ofWord w).n.toNat = w.toNat % 16 := by
  simp [ofWord, BitVec.extractLsb'_toNat]

theorem ofWord_kk_toNat (w : Word) : (ofWord w).kk.toNat = w.toNat % 256 := by
  simp [ofWord, BitVec.extractLsb'_toNat]

theorem ofWord_nnn_toNat (w : Word) : (ofWord w).nnn.toNat = w.toNat % 4096 := by
  simp [ofWord, BitVec.extractLsb'_toNat]

theorem wellFormed_iff (f : Fields) : f.wellFormed = true ↔
    f.kk.toNat = f.y.toNat * 16 + f.n.toNat ∧ f.nnn.toNat = f.x.toNat * 256 + f.kk.toNat := by
  simp [wellFormed]

theorem wellFormed_ofWord (w : Word) : (ofWord w).wellFormed = true := by
  rw [wellFormed_iff, ofWord_kk_toNat, ofWord_y_toNat, ofWord_n_toNat, ofWord_nnn_toNat, ofWord_x_toNat]
  omega

/-! ## Fields of a built word (R84) -/

section
variable (c x y n : Nibble)

@[simp] theorem ofWord_wordOfNibbles_c : (ofWord (wordOfNibbles c x y n)).c = c := by
  apply BitVec.eq_of_toNat_eq
  rw [ofWord_c_toNat, wordOfNibbles_toNat]
  omega

@[simp] theorem ofWord_wordOfNibbles_x : (ofWord (wordOfNibbles c x y n)).x = x := by
  apply BitVec.eq_of_toNat_eq
  rw [ofWord_x_toNat, wordOfNibbles_toNat]
  omega

@[simp] theorem ofWord_wordOfNibbles_y : (ofWord (wordOfNibbles c x y n)).y = y := by
  apply BitVec.eq_of_toNat_eq
  rw [ofWord_y_toNat, wordOfNibbles_toNat]
  omega

@[simp] theorem ofWord_wordOfNibbles_n : (ofWord (wordOfNibbles c x y n)).n = n := by
  apply BitVec.eq_of_toNat_eq
  rw [ofWord_n_toNat, wordOfNibbles_toNat]
  omega

theorem ofWord_wordOfNibbles_kk_toNat :
    (ofWord (wordOfNibbles c x y n)).kk.toNat = y.toNat * 16 + n.toNat := by
  rw [ofWord_kk_toNat, wordOfNibbles_toNat]
  omega

theorem ofWord_wordOfNibbles_nnn_toNat :
    (ofWord (wordOfNibbles c x y n)).nnn.toNat = x.toNat * 256 + y.toNat * 16 + n.toNat := by
  rw [ofWord_nnn_toNat, wordOfNibbles_toNat]
  omega

end

theorem wordOfNibbles_ofWord (w : Word) :
    wordOfNibbles (ofWord w).c (ofWord w).x (ofWord w).y (ofWord w).n = w := by
  apply BitVec.eq_of_toNat_eq
  rw [wordOfNibbles_toNat, ofWord_c_toNat, ofWord_x_toNat, ofWord_y_toNat, ofWord_n_toNat]
  omega

/-- `KK` is a byte exactly when `Y` and `N` are its nibbles (R83). -/
theorem ofWord_kk_eq_iff (w : Word) (b : Byte) :
    (ofWord w).kk = b ↔ (ofWord w).y = b.extractLsb' 4 4 ∧ (ofWord w).n = b.extractLsb' 0 4 := by
  simp only [← BitVec.toNat_inj, ofWord_kk_toNat, ofWord_y_toNat, ofWord_n_toNat, BitVec.extractLsb'_toNat,
    Nat.shiftRight_eq_div_pow]
  omega

end Fields

theorem wordOfNibbles_inj {c x y n c' x' y' n' : Nibble} :
    wordOfNibbles c x y n = wordOfNibbles c' x' y' n' ↔ c = c' ∧ x = x' ∧ y = y' ∧ n = n' := by
  constructor
  · intro h
    have hf := congrArg Fields.ofWord h
    exact ⟨by simpa using congrArg Fields.c hf, by simpa using congrArg Fields.x hf,
      by simpa using congrArg Fields.y hf, by simpa using congrArg Fields.n hf⟩
  · rintro ⟨rfl, rfl, rfl, rfl⟩
    rfl

/-- Settles O1, from the value of each field; well-formedness is arithmetic on those values. -/
theorem fieldExtraction : Obligations.FieldExtraction := fun w =>
  ⟨Fields.ofWord_c_toNat w, Fields.ofWord_x_toNat w, Fields.ofWord_y_toNat w, Fields.ofWord_n_toNat w,
    Fields.ofWord_kk_toNat w, Fields.ofWord_nnn_toNat w, Fields.wellFormed_ofWord w⟩

/-- Settles O2: each field of a built word, and the word built from its own fields, by their values. -/
theorem fieldsRoundTrip : Obligations.FieldsRoundTrip := by
  refine ⟨fun c x y n => ?_, Fields.wordOfNibbles_ofWord⟩
  exact ⟨wordOfNibbles_toNat c x y n, Fields.ofWord_wordOfNibbles_c c x y n, Fields.ofWord_wordOfNibbles_x c x y n,
    Fields.ofWord_wordOfNibbles_y c x y n, Fields.ofWord_wordOfNibbles_n c x y n,
    Fields.ofWord_wordOfNibbles_kk_toNat c x y n, Fields.ofWord_wordOfNibbles_nnn_toNat c x y n⟩

/-! ## Masks by fields (R88) -/

/-- A masked word is compared nibble by nibble. -/
theorem and_eq_iff_nibbles (w : Word) (c' x' y' n' c x y n : Nibble) :
    w &&& wordOfNibbles c' x' y' n' = wordOfNibbles c x y n ↔
    (Fields.ofWord w).c &&& c' = c ∧ (Fields.ofWord w).x &&& x' = x ∧
    (Fields.ofWord w).y &&& y' = y ∧ (Fields.ofWord w).n &&& n' = n := by
  rw [← wordOfNibbles_inj, ← wordOfNibbles_and, Fields.wordOfNibbles_ofWord]

@[simp] theorem nibble_and_ones (a : Nibble) : a &&& 0xF#4 = a := BitVec.and_allOnes

section
variable {w : Word} {c x n : Nibble} {kk : Byte}

theorem and_category_iff :
    w &&& wordOfNibbles 0xF 0 0 0 = wordOfNibbles c 0 0 0 ↔ (Fields.ofWord w).c = c := by
  simp [and_eq_iff_nibbles]

theorem and_nibble_iff : w &&& wordOfNibbles 0xF 0 0 0xF = wordOfNibbles c 0 0 n ↔
    (Fields.ofWord w).c = c ∧ (Fields.ofWord w).n = n := by
  simp [and_eq_iff_nibbles]

theorem and_byte_iff : w &&& wordOfNibbles 0xF 0 0xF 0xF = wordOfByteForm c 0 kk ↔
    (Fields.ofWord w).c = c ∧ (Fields.ofWord w).kk = kk := by
  simp [wordOfByteForm, and_eq_iff_nibbles, Fields.ofWord_kk_eq_iff]

theorem and_ones_iff : w &&& wordOfNibbles 0xF 0xF 0xF 0xF = wordOfByteForm c x kk ↔
    (Fields.ofWord w).c = c ∧ (Fields.ofWord w).x = x ∧ (Fields.ofWord w).kk = kk := by
  simp [wordOfByteForm, and_eq_iff_nibbles, Fields.ofWord_kk_eq_iff]

end

/-! ## Row selection by fields (R88) -/

/-- What the row of an instruction in R88, Table 2, asks of a word's fields, with R86's extra tests in strict mode. -/
def Instr.rowMatches (strict : Bool) (f : Fields) : Instr → Prop
  | .cls => f.c = 0x0#4 ∧ f.kk = 0xE0#8 ∧ (strict = true → f.x = 0x0#4)
  | .ret => f.c = 0x0#4 ∧ f.kk = 0xEE#8 ∧ (strict = true → f.x = 0x0#4)
  | .jp _ => f.c = 0x1#4
  | .call _ => f.c = 0x2#4
  | .seImm _ _ => f.c = 0x3#4
  | .sneImm _ _ => f.c = 0x4#4
  | .seReg _ _ => f.c = 0x5#4 ∧ (strict = true → f.n = 0x0#4)
  | .ldImm _ _ => f.c = 0x6#4
  | .addImm _ _ => f.c = 0x7#4
  | .ldReg _ _ => f.c = 0x8#4 ∧ f.n = 0x0#4
  | .orReg _ _ => f.c = 0x8#4 ∧ f.n = 0x1#4
  | .andReg _ _ => f.c = 0x8#4 ∧ f.n = 0x2#4
  | .xorReg _ _ => f.c = 0x8#4 ∧ f.n = 0x3#4
  | .addReg _ _ => f.c = 0x8#4 ∧ f.n = 0x4#4
  | .sub _ _ => f.c = 0x8#4 ∧ f.n = 0x5#4
  | .shr _ _ => f.c = 0x8#4 ∧ f.n = 0x6#4
  | .subn _ _ => f.c = 0x8#4 ∧ f.n = 0x7#4
  | .shl _ _ => f.c = 0x8#4 ∧ f.n = 0xE#4
  | .sneReg _ _ => f.c = 0x9#4 ∧ f.n = 0x0#4
  | .ldI _ => f.c = 0xA#4
  | .jpV0 _ => f.c = 0xB#4
  | .rnd _ _ => f.c = 0xC#4
  | .drw _ _ _ => f.c = 0xD#4
  | .skp _ => f.c = 0xE#4 ∧ f.kk = 0x9E#8
  | .sknp _ => f.c = 0xE#4 ∧ f.kk = 0xA1#8
  | .ldVxDt _ => f.c = 0xF#4 ∧ f.kk = 0x07#8
  | .ldVxK _ => f.c = 0xF#4 ∧ f.kk = 0x0A#8
  | .ldDtVx _ => f.c = 0xF#4 ∧ f.kk = 0x15#8
  | .ldStVx _ => f.c = 0xF#4 ∧ f.kk = 0x18#8
  | .addI _ => f.c = 0xF#4 ∧ f.kk = 0x1E#8
  | .ldF _ => f.c = 0xF#4 ∧ f.kk = 0x29#8
  | .ldB _ => f.c = 0xF#4 ∧ f.kk = 0x33#8
  | .stRegs _ => f.c = 0xF#4 ∧ f.kk = 0x55#8
  | .ldRegs _ => f.c = 0xF#4 ∧ f.kk = 0x65#8

section
variable {strict : Bool} {w : Word} {c n : Nibble} {kk : Byte} {p : Pattern}

/-- A row whose masks keep the category alone. -/
theorem Pattern.selectedBy_of_category (hp : p = ⟨wordOfNibbles c 0 0 0, 0xF000, 0xF000⟩) :
    p.selectedBy strict w ↔ (Fields.ofWord w).c = c := by
  subst hp
  cases strict <;> exact and_category_iff

/-- A row whose masks keep the category and N. -/
theorem Pattern.selectedBy_of_nibble (hp : p = ⟨wordOfNibbles c 0 0 n, 0xF00F, 0xF00F⟩) :
    p.selectedBy strict w ↔ (Fields.ofWord w).c = c ∧ (Fields.ofWord w).n = n := by
  subst hp
  cases strict <;> exact and_nibble_iff

/-- A row whose masks keep the category and KK. -/
theorem Pattern.selectedBy_of_byte (hp : p = ⟨wordOfByteForm c 0 kk, 0xF0FF, 0xF0FF⟩) :
    p.selectedBy strict w ↔ (Fields.ofWord w).c = c ∧ (Fields.ofWord w).kk = kk := by
  subst hp
  cases strict <;> exact and_byte_iff

/-- A row whose masks keep the category and KK, and every bit in strict mode (R86). -/
theorem Pattern.selectedBy_of_strictX (hp : p = ⟨wordOfByteForm c 0 kk, 0xF0FF, 0xFFFF⟩) :
    p.selectedBy strict w ↔
      (Fields.ofWord w).c = c ∧ (Fields.ofWord w).kk = kk ∧ (strict = true → (Fields.ofWord w).x = 0) := by
  subst hp
  cases strict
  · exact and_byte_iff.trans (by simp)
  · exact and_ones_iff.trans (by simp [and_comm])

/-- A row whose masks keep the category, and N in strict mode (R86). -/
theorem Pattern.selectedBy_of_strictN (hp : p = ⟨wordOfNibbles c 0 0 0, 0xF000, 0xF00F⟩) :
    p.selectedBy strict w ↔ (Fields.ofWord w).c = c ∧ (strict = true → (Fields.ofWord w).n = 0) := by
  subst hp
  cases strict
  · exact and_category_iff.trans (by simp)
  · exact and_nibble_iff.trans (by simp)

end

/-- The match and mask of a row, read as a test on the fields (R88). -/
theorem Instr.selectedBy_iff_rowMatches {strict : Bool} {w : Word} : (i : Instr) →
    (i.pattern.selectedBy strict w ↔ i.rowMatches strict (Fields.ofWord w))
  | .cls | .ret => Pattern.selectedBy_of_strictX rfl
  | .seReg _ _ => Pattern.selectedBy_of_strictN rfl
  | .jp _ | .call _ | .seImm _ _ | .sneImm _ _ | .ldImm _ _ | .addImm _ _ | .ldI _ | .jpV0 _ | .rnd _ _
  | .drw _ _ _ => Pattern.selectedBy_of_category rfl
  | .ldReg _ _ | .orReg _ _ | .andReg _ _ | .xorReg _ _ | .addReg _ _ | .sub _ _ | .shr _ _ | .subn _ _
  | .shl _ _ | .sneReg _ _ => Pattern.selectedBy_of_nibble rfl
  | .skp _ | .sknp _ | .ldVxDt _ | .ldVxK _ | .ldDtVx _ | .ldStVx _ | .addI _ | .ldF _ | .ldB _ | .stRegs _
  | .ldRegs _ => Pattern.selectedBy_of_byte rfl

/-! ## The dispatch multiplexer (R86, R87, R90) -/

/-- What dispatch selects is an instruction whose row the fields match. -/
theorem rowMatches_of_dispatch {strict : Bool} {f : Fields} {i : Instr} :
    dispatch strict f = some i → i.rowMatches strict f := by
  fun_cases dispatch strict f <;> rintro ⟨⟩ <;> simp_all [Instr.rowMatches]

/-- Fields that match a row are dispatched to an instruction of that row. -/
theorem dispatch_of_rowMatches {strict : Bool} {f : Fields} {i : Instr} (h : i.rowMatches strict f) :
    ∃ j, dispatch strict f = some j ∧ j.pattern = i.pattern := by
  cases i <;> simp_all [Instr.rowMatches, dispatch, Instr.pattern]

/-- The values of `N` that R90 lists for category 8 are those no row of category 8 has. -/
theorem illegal_aluN_iff (n : Nibble) : n ∈ [(0x8 : Nibble), 0x9, 0xA, 0xB, 0xC, 0xD, 0xF] ↔
    n ∉ [(0x0 : Nibble), 0x1, 0x2, 0x3, 0x4, 0x5, 0x6, 0x7, 0xE] := by
  decide +revert

theorem dispatch_category0_eq_none_iff (strict : Bool) {f : Fields} (hc : f.c = 0x0#4) :
    dispatch strict f = none ↔ illegal strict f := by
  cases strict <;> simp [dispatch, illegal, hc, ite_eq_iff, imp_iff_or_not]

theorem dispatch_category8_eq_none_iff (strict : Bool) {f : Fields} (hc : f.c = 0x8#4) :
    dispatch strict f = none ↔ illegal strict f := by
  simpa [dispatch, illegal, hc, ite_eq_iff] using (illegal_aluN_iff f.n).symm

/-- Dispatch answers UNIMPL for exactly the fields of R90, category by category. -/
theorem dispatch_eq_none_iff (strict : Bool) (f : Fields) : dispatch strict f = none ↔ illegal strict f := by
  by_cases h0 : f.c = 0x0#4
  · exact dispatch_category0_eq_none_iff strict h0
  by_cases h8 : f.c = 0x8#4
  · exact dispatch_category8_eq_none_iff strict h8
  obtain ⟨⟨⟨c, hc⟩⟩, x, y, n, kk, nnn⟩ := f
  interval_cases c <;> simp_all [dispatch, illegal, ite_eq_iff]

/-- A word selects no row exactly when it decodes to nothing. -/
theorem forall_not_selectedBy_iff (strict : Bool) (w : Word) :
    (∀ i : Instr, ¬i.pattern.selectedBy strict w) ↔ decodeWord strict w = none := by
  simp only [Instr.selectedBy_iff_rowMatches, decodeWord]
  constructor
  · intro h
    by_contra hd
    obtain ⟨i, hi⟩ := Option.ne_none_iff_exists'.mp hd
    exact h i (rowMatches_of_dispatch hi)
  · intro hd i hi
    obtain ⟨j, hj, -⟩ := dispatch_of_rowMatches hi
    simp [hd] at hj

/-! ## The step of an illegal word (R90, R126) -/

theorem step_of_undecoded {s : State} {w : Word} (hrun : s.status = .run) (hpc : s.pc.toNat < s.endAddr.toNat)
    (hw : s.fetch = some w) (hi : decodeWord s.cfg.strictDecode w = none) :
    step s = .next (s.stop .unimplementedOpcode) := by
  rw [step_running hrun, runStep, if_neg (by omega), hw]
  simp only [hi]

/-- Settles O5: dispatch answers UNIMPL exactly for R90's fields, exactly when no row is selected, and the step of an
undecoded word raises the error on the state before it. -/
theorem illegalWordsAreFatal : Obligations.IllegalWordsAreFatal := by
  have hdecode (strict : Bool) (w : Word) : decodeWord strict w = none ↔ illegal strict (Fields.ofWord w) :=
    dispatch_eq_none_iff strict _
  refine ⟨fun strict w => ?_, hdecode, fun s w hrun hpc hw hill => ?_⟩
  · rw [← hdecode, forall_not_selectedBy_iff]
  · rw [step_of_undecoded hrun hpc hw ((hdecode _ w).mpr hill), State.stop_eq, hw]
    rfl

end Sys2Proof

/-! What an instruction and a step can do (40_execution_cycle.md R122 to R130), each said once: an instruction either
raises one fatal error on the state before it or completes, and a step is one of six cases. -/

namespace Sys2Proof

open Sys2Proof.Machine Sys2Proof.Claims

/-! ## An instruction either raises a fatal error or completes (R127) -/

/-- The instructions that write the frame buffer (R32, R33). -/
def Instr.draws : Instr → Bool
  | .cls | .drw _ _ _ => true
  | _ => false

theorem Instr.draws_iff {i : Instr} : i.draws = true ↔ i = .cls ∨ ∃ x y n, i = .drw x y n := by
  cases i <;> simp [draws]

/-- What every instruction keeps when it completes: STATUS, the configuration and the ports, LAST_TICK and END; the frame
buffer unless it draws, and DIRTY is set exactly if it draws (R32, R33). -/
structure Completes (i : Instr) (s t : State) : Prop where
  frame : t = { s with
    v := t.v, i := t.i, pc := t.pc, sp := t.sp, stack := t.stack, dt := t.dt, st := t.st, mem := t.mem,
    fb := t.fb, dirty := i.draws || s.dirty }
  screen : i.draws = false → t.fb = s.fb

theorem Completes.status_eq {i : Instr} {s t : State} (h : Completes i s t) : t.status = s.status := by
  rw [h.frame]

theorem Completes.dirty_eq {i : Instr} {s t : State} (h : Completes i s t) : t.dirty = (i.draws || s.dirty) := by
  rw [h.frame]

/-- The instruction answers a next state: the state before it with a fatal error raised, or one it completes in. -/
def RaisesOrCompletes (i : Instr) (s : State) : Prop :=
  (∃ code, exec i s = .next (s.raise code)) ∨ ∃ t, exec i s = .next t ∧ Completes i s t

section
variable {i : Instr} {s t : State}

theorem RaisesOrCompletes.of_completes (h : exec i s = .next t) (hc : Completes i s t) : RaisesOrCompletes i s :=
  .inr ⟨t, h, hc⟩

theorem RaisesOrCompletes.of_fatalIf {bad : Prop} [Decidable bad] {code : FatalCode}
    (h : exec i s = fatalIf bad code s t) (hc : Completes i s t) : RaisesOrCompletes i s := by
  by_cases hbad : bad
  · exact .inl ⟨code, h.trans (fatalIf_pos hbad)⟩
  · exact .of_completes (h.trans (fatalIf_neg hbad)) hc

end

theorem ret_raisesOrCompletes (s : State) : RaisesOrCompletes .ret s := by
  have hexec : exec .ret s = execRet s := rfl
  obtain ⟨_, hpop⟩ | ⟨_, hpop⟩ := s.pop?_eq
  · rw [execRet, hpop] at hexec
    exact .of_completes hexec ⟨rfl, fun _ => rfl⟩
  · rw [execRet, hpop] at hexec
    exact .inl ⟨_, hexec⟩

theorem call_raisesOrCompletes (nnn : Addr12) (s : State) : RaisesOrCompletes (.call nnn) s := by
  have hexec : exec (.call nnn) s = execCall nnn s := rfl
  obtain ⟨_, hpush⟩ | ⟨_, hpush⟩ := s.push?_eq s.pc
  · rw [execCall, hpush] at hexec
    exact .of_completes hexec ⟨rfl, fun _ => rfl⟩
  · rw [execCall, hpush] at hexec
    exact .inl ⟨_, hexec⟩

theorem ldVxK_raisesOrCompletes (x : Nibble) (s : State) : RaisesOrCompletes (.ldVxK x) s := by
  have hexec : exec (.ldVxK x) s = execLdVxK x s := rfl
  unfold execLdVxK at hexec
  split at hexec
  · exact .of_completes hexec ⟨rfl, fun _ => rfl⟩
  · exact .of_completes hexec ⟨rfl, fun _ => rfl⟩

theorem addI_raisesOrCompletes (x : Nibble) (s : State) : RaisesOrCompletes (.addI x) s := by
  have hexec : exec (.addI x) s = execAddI x s := rfl
  unfold execAddI at hexec
  split at hexec
  · exact .of_completes hexec ⟨rfl, fun _ => rfl⟩
  · exact .of_completes hexec ⟨rfl, fun _ => rfl⟩

theorem stRegs_raisesOrCompletes (x : Nibble) (s : State) : RaisesOrCompletes (.stRegs x) s := by
  refine .of_fatalIf rfl ?_
  rw [State.bumpI_eq, State.storeRegs_eq]
  exact ⟨rfl, fun _ => rfl⟩

theorem ldRegs_raisesOrCompletes (x : Nibble) (s : State) : RaisesOrCompletes (.ldRegs x) s := by
  refine .of_fatalIf rfl ?_
  rw [State.bumpI_eq, State.loadRegs_eq]
  exact ⟨rfl, fun _ => rfl⟩

/-- Every instruction, from every state. -/
theorem raisesOrCompletes (s : State) : (i : Instr) → RaisesOrCompletes i s
  | .ret => ret_raisesOrCompletes s
  | .call nnn => call_raisesOrCompletes nnn s
  | .ldVxK x => ldVxK_raisesOrCompletes x s
  | .addI x => addI_raisesOrCompletes x s
  | .stRegs x => stRegs_raisesOrCompletes x s
  | .ldRegs x => ldRegs_raisesOrCompletes x s
  | .drw _ _ _ => .of_fatalIf rfl ⟨rfl, nofun⟩
  | .skp _ | .sknp _ | .ldB _ => .of_fatalIf rfl ⟨rfl, fun _ => rfl⟩
  | .cls => .of_completes rfl ⟨rfl, nofun⟩
  | .jp _ | .jpV0 _ | .seImm _ _ | .sneImm _ _ | .seReg _ _ | .sneReg _ _
  | .ldImm _ _ | .addImm _ _ | .ldReg _ _ | .orReg _ _ | .andReg _ _ | .xorReg _ _ | .addReg _ _ | .sub _ _
  | .shr _ _ | .subn _ _ | .shl _ _ | .rnd _ _ | .ldVxDt _ | .ldDtVx _ | .ldStVx _ | .ldI _ | .ldF _ =>
    .of_completes rfl ⟨rfl, fun _ => rfl⟩

/-- An instruction run from a running state that leaves it running has completed. -/
theorem completes_of_running {i : Instr} {s t : State} (h : exec i s = .next t) (ht : t.status = .run) :
    Completes i s t := by
  obtain ⟨code, hraise⟩ | ⟨t', hnext, hc⟩ := raisesOrCompletes s i
  · obtain rfl : s.raise code = t := by simpa [hraise] using h
    simp at ht
  · obtain rfl : t' = t := by simpa [hnext] using h
    exact hc

/-! ## The cases of a step (R122 to R130) -/

/-- The step of the instruction at `pc` is what `Execute` answers, followed by the end of the step. -/
theorem step_of_runsNext {i : Instr} {s t : State} (hs : runsNext s i) (h : exec i s = .next t) :
    step s = .next (s.complete t) := by
  obtain ⟨hrun, hpc, w, hw, hi⟩ := hs
  rw [step_executes hrun hpc hw hi, executeStep, h]

/-- Everything a step can do: what it finds, and the state it leaves. -/
inductive StepCases (s : State) : State → Prop where
  /-- The machine has stopped before (R122). -/
  | stopped : s.status ≠ .run → StepCases s (s.report (reported s.status))
  /-- `pc` is at or past END (R124). -/
  | ends : s.status = .run → s.endAddr.toNat ≤ s.pc.toNat → StepCases s s.halt
  /-- The word at `pc` is not whole in memory (R61). -/
  | unfetched : s.status = .run → s.pc.toNat < s.endAddr.toNat → s.fetch = none →
      StepCases s (s.stop .memoryOutOfRange)
  /-- The word at `pc` is no instruction (R90, R126). -/
  | undecoded (w : Word) : s.status = .run → s.pc.toNat < s.endAddr.toNat → s.fetch = some w →
      decodeWord s.cfg.strictDecode w = none → StepCases s (s.stop .unimplementedOpcode)
  /-- The instruction raises a fatal error (R254). -/
  | raises (i : Instr) (code : FatalCode) : runsNext s i → exec i s = .next (s.raise code) → StepCases s (s.stop code)
  /-- The instruction completes (R123). -/
  | completes (i : Instr) (t : State) : runsNext s i → exec i s = .next t → Completes i s t →
      StepCases s t.tick.endStep.hostTurn

/-- The step that finds the machine stopped (R122). -/
theorem step_stopped {s : State} (h : s.status ≠ .run) : step s = .next (s.report (reported s.status)) := by
  unfold step cycle
  split
  next hs => exact absurd hs h
  next hs => rw [hs]; rfl
  next r hs => rw [hs]; rfl

/-- The step at or past END (R124). -/
theorem step_atEnd {s : State} (hrun : s.status = .run) (hend : s.endAddr.toNat ≤ s.pc.toNat) :
    step s = .next s.halt := by
  rw [step_running hrun, runStep, if_pos hend]

/-- The step of a word not whole in memory (R61). -/
theorem step_of_unfetched {s : State} (hrun : s.status = .run) (hpc : s.pc.toNat < s.endAddr.toNat)
    (hw : s.fetch = none) : step s = .next (s.stop .memoryOutOfRange) := by
  rw [step_running hrun, runStep, if_neg (by omega), hw]

/-- Every step is one of the cases. -/
theorem exists_step_stepCases (s : State) : ∃ u, step s = .next u ∧ StepCases s u := by
  by_cases hrun : s.status = .run
  case neg => exact ⟨_, step_stopped hrun, .stopped hrun⟩
  by_cases hpc : s.pc.toNat < s.endAddr.toNat
  case neg => exact ⟨_, step_atEnd hrun (by omega), .ends hrun (by omega)⟩
  cases hw : s.fetch with
  | none => exact ⟨_, step_of_unfetched hrun hpc hw, .unfetched hrun hpc hw⟩
  | some w =>
    cases hi : decodeWord s.cfg.strictDecode w with
    | none => exact ⟨_, step_of_undecoded hrun hpc hw hi, .undecoded w hrun hpc hw hi⟩
    | some i =>
      have hs : runsNext s i := ⟨hrun, hpc, w, hw, hi⟩
      obtain ⟨code, h⟩ | ⟨t, h, hc⟩ := raisesOrCompletes s i
      · exact ⟨_, step_of_runsNext hs h, .raises i code hs h⟩
      · refine ⟨_, step_of_runsNext hs h, ?_⟩
        rw [State.complete_running (hc.status_eq.trans hrun)]
        exact .completes i t hs h hc

theorem stepCases_of_step {s u : State} (h : step s = .next u) : StepCases s u := by
  obtain ⟨u', hu, hcases⟩ := exists_step_stepCases s
  obtain rfl : u' = u := by simpa [hu] using h
  exact hcases

/-- A step that leaves the machine stopped does not notify the renderer. -/
theorem renderNotify_of_stopped {s u : State} (h : step s = .next u) (hu : u.status ≠ .run) :
    u.out.renderNotify = false := by
  cases stepCases_of_step h with
  | stopped | ends | unfetched | undecoded | raises => rfl
  | completes i t hs _ hc =>
    obtain ⟨hrun, -⟩ := hs
    exact absurd (hc.status_eq.trans hrun) hu

/-- Settles O15: the step of an instruction that completes reports and clears the DIRTY it left, which from a clean state is
whether it draws; no other step notifies. -/
theorem renderNotification : Obligations.RenderNotification := by
  refine ⟨fun s t u i hclean hs hexec ht hstep => ?_, fun s u => renderNotify_of_stopped⟩
  have hdirty : t.dirty = i.draws := by
    rw [(completes_of_running hexec ht).dirty_eq, hclean, Bool.or_false]
  rw [step_of_runsNext hs hexec, State.complete_running ht] at hstep
  cases hstep
  exact ⟨rfl, rfl, by simp [hdirty, Instr.draws_iff]⟩

end Sys2Proof

/-! What every instruction statement needs besides its effect: the words that encode the instruction (30_encoding.md
R81, R88) and the halt of a run that has reached END (40_execution_cycle.md R124). -/

namespace Sys2Proof

open Sys2Proof.Machine Sys2Proof.Claims

/-! ## The words of an instruction (R81, R88) -/

/-- The instruction of the same row whose operands are the given fields (R81). -/
def Instr.withOperands (f : Fields) : Instr → Instr
  | .cls => .cls
  | .ret => .ret
  | .jp _ => .jp f.nnn
  | .call _ => .call f.nnn
  | .seImm _ _ => .seImm f.x f.kk
  | .sneImm _ _ => .sneImm f.x f.kk
  | .seReg _ _ => .seReg f.x f.y
  | .ldImm _ _ => .ldImm f.x f.kk
  | .addImm _ _ => .addImm f.x f.kk
  | .ldReg _ _ => .ldReg f.x f.y
  | .orReg _ _ => .orReg f.x f.y
  | .andReg _ _ => .andReg f.x f.y
  | .xorReg _ _ => .xorReg f.x f.y
  | .addReg _ _ => .addReg f.x f.y
  | .sub _ _ => .sub f.x f.y
  | .shr _ _ => .shr f.x f.y
  | .subn _ _ => .subn f.x f.y
  | .shl _ _ => .shl f.x f.y
  | .sneReg _ _ => .sneReg f.x f.y
  | .ldI _ => .ldI f.nnn
  | .jpV0 _ => .jpV0 f.nnn
  | .rnd _ _ => .rnd f.x f.kk
  | .drw _ _ _ => .drw f.x f.y f.n
  | .skp _ => .skp f.x
  | .sknp _ => .sknp f.x
  | .ldVxDt _ => .ldVxDt f.x
  | .ldVxK _ => .ldVxK f.x
  | .ldDtVx _ => .ldDtVx f.x
  | .ldStVx _ => .ldStVx f.x
  | .addI _ => .addI f.x
  | .ldF _ => .ldF f.x
  | .ldB _ => .ldB f.x
  | .stRegs _ => .stRegs f.x
  | .ldRegs _ => .ldRegs f.x

/-- Fields that match a row are dispatched to that row's instruction with the fields as its operands. -/
theorem dispatch_eq_withOperands {strict : Bool} {f : Fields} {i : Instr} (h : i.rowMatches strict f) :
    dispatch strict f = some (i.withOperands f) := by
  cases i <;> simp_all [Instr.rowMatches, dispatch, Instr.withOperands]

/-- The words of a row decode to its instruction, with the word's own fields as operands; the row is named by any one of
its instructions. -/
theorem encodedAs_pattern (i : Instr) :
    encodedAs i.pattern.bits i.pattern.mask i.pattern.strictMask i.withOperands := fun _ _ hw =>
  dispatch_eq_withOperands (i.selectedBy_iff_rowMatches.mp hw)

/-! ## Reaching END (R124) -/

/-- Whatever brought `pc` to or past END, the next step halts. -/
theorem haltsIfPastEnd_of_any (s : State) (p : Word) : haltsIfPastEnd s p := by
  intro u hrun hpc hend hle
  exact ⟨u.halt, step_atEnd hrun (by rwa [hend, hpc]), rfl, rfl⟩

end Sys2Proof

/-! The control-flow instructions (41_control_flow.md): jump, call, and the skips that compare. -/

namespace Sys2Proof

open Sys2Proof.Machine Sys2Proof.Claims

/-! ## What each instruction answers -/

section
variable (s : State) (x y : Nibble) (kk : Byte) {nnn : Addr12}

theorem exec_jp_self (h : s.pc.toNat = nnn.toNat) : exec (.jp nnn) s = .next s := by
  have hpc : zextAddr nnn = s.pc := BitVec.eq_of_toNat_eq (by rw [zextAddr_toNat, h])
  change Host.Outcome.next (s.setPc (zextAddr nnn)) = _
  rw [hpc]
  rfl

theorem exec_call_of_lt (h : s.sp.val < 16) : exec (.call nnn) s = .next { s with
    stack := s.stack.set s.sp.val s.pc h, sp := ⟨s.sp.val + 1, by omega⟩, pc := zextAddr nnn } := by
  change execCall nnn s = _
  obtain ⟨_, hpush⟩ | ⟨hfull, _⟩ := s.push?_eq s.pc
  · rw [execCall, hpush]
    rfl
  · omega

theorem exec_call_of_full (h : s.sp.val = 16) :
    exec (.call nnn) s = .next (faultedAt s .stackOverflow s.fetch) := by
  change execCall nnn s = _
  obtain ⟨hlt, _⟩ | ⟨_, hpush⟩ := s.push?_eq s.pc
  · omega
  · rw [execCall, hpush]
    rfl

/-- A skip on equality (R128). -/
theorem State.skipIf_beq (a b : Byte) :
    s.skipIf (a == b) = { s with pc := if a = b then s.pc + 4 else s.pc + 2 } := by
  by_cases h : a = b <;> simp [State.skipIf, State.setPc, h]

/-- A skip on inequality (R128). -/
theorem State.skipIf_bne (a b : Byte) :
    s.skipIf (a != b) = { s with pc := if a = b then s.pc + 2 else s.pc + 4 } := by
  by_cases h : a = b <;> simp [State.skipIf, State.setPc, h]

theorem exec_seImm :
    exec (.seImm x kk) s = .next { s with pc := if s.readV x = kk then s.pc + 4 else s.pc + 2 } :=
  congrArg _ (State.skipIf_beq s (s.readV x) kk)

theorem exec_sneImm :
    exec (.sneImm x kk) s = .next { s with pc := if s.readV x = kk then s.pc + 2 else s.pc + 4 } :=
  congrArg _ (State.skipIf_bne s (s.readV x) kk)

theorem exec_seReg :
    exec (.seReg x y) s = .next { s with pc := if s.readV x = s.readV y then s.pc + 4 else s.pc + 2 } :=
  congrArg _ (State.skipIf_beq s (s.readV x) (s.readV y))

theorem exec_sneReg :
    exec (.sneReg x y) s = .next { s with pc := if s.readV x = s.readV y then s.pc + 2 else s.pc + 4 } :=
  congrArg _ (State.skipIf_bne s (s.readV x) (s.readV y))

end

/-! ## The statements -/

/-- Settles O36: the jump sets `pc` to the zero-extended address, and any `pc` at or past END halts. -/
theorem jumpSetsPc : Obligations.JumpSetsPc := by
  refine ⟨encodedAs_pattern (.jp 0), fun s nnn => ⟨zextAddr nnn, zextAddr_toNat nnn, rfl, ?_, exec_jp_self s⟩⟩
  exact haltsIfPastEnd_of_any s _

/-- Settles O38, by whether the push finds room. -/
theorem callPushesOwnAddress : Obligations.CallPushesOwnAddress := by
  refine ⟨encodedAs_pattern (.call 0), fun s nnn => ⟨fun h => ?_, exec_call_of_full s⟩⟩
  exact ⟨zextAddr nnn, _, zextAddr_toNat nnn, rfl, exec_call_of_lt s h⟩

/-- Settles O41, from the two cases of a skip on a comparison. -/
theorem skipsOnImmediate : Obligations.SkipsOnImmediate := by
  refine ⟨encodedAs_pattern (.seImm 0 0), encodedAs_pattern (.sneImm 0 0), fun s x kk => ?_⟩
  exact ⟨exec_seImm s x kk, exec_sneImm s x kk, haltsIfPastEnd_of_any s _⟩

/-- Settles O42: the same two cases; the neighbouring words are among R90's illegal ones, and a register equals
itself. -/
theorem skipsOnRegisters : Obligations.SkipsOnRegisters := by
  refine ⟨encodedAs_pattern (.seReg 0 0), encodedAs_pattern (.sneReg 0 0), fun w hc hn => ?_,
    fun strict w hc hn => ?_, fun s x y => ⟨exec_seReg s x y, exec_sneReg s x y, ?_, ?_⟩⟩
  · exact (dispatch_eq_none_iff true _).mpr (by simpa [illegal, hc] using hn)
  · exact (dispatch_eq_none_iff strict _).mpr (by simpa [illegal, hc] using hn)
  · rw [exec_seReg, if_pos rfl]
  · rw [exec_sneReg, if_pos rfl]

end Sys2Proof

/-! Register loads, arithmetic and logic (42_alu.md): an instruction of this family writes one register, or one register
and then VF, and advances `pc`. -/

namespace Sys2Proof

open Sys2Proof.Machine Sys2Proof.Claims

/-! ## The two shapes of an answer (R22, R159) -/

section
variable {i : Instr} {s : State} {x : Nibble} {b : Byte} {f : Bool}

theorem regsAndPc_writeV : regsAndPc s (s.writeV x b).advance (s.pc + 2) := rfl

theorem regsAndPc_writeWithFlag : regsAndPc s (s.writeWithFlag x b f).advance (s.pc + 2) := rfl

/-- A single register write: every register after it. -/
theorem exec_writeV_readV (h : exec i s = .next (s.writeV x b).advance) :
    ∃ t, exec i s = .next t ∧ regsAndPc s t (s.pc + 2) ∧ ∀ k, t.readV k = if k = x then b else s.readV k :=
  ⟨_, h, regsAndPc_writeV, fun k => by rw [State.readV_advance, State.readV_writeV]⟩

/-- A single register write, read bit by bit. -/
theorem exec_writeV_getLsbD {r : Nat → Bool} (h : exec i s = .next (s.writeV x b).advance)
    (hb : ∀ j, b.getLsbD j = r j) :
    ∃ t, exec i s = .next t ∧ regsAndPc s t (s.pc + 2) ∧
      ∀ k j, (t.readV k).getLsbD j = if k = x then r j else (s.readV k).getLsbD j := by
  obtain ⟨t, ht, hframe, hregs⟩ := exec_writeV_readV h
  refine ⟨t, ht, hframe, fun k j => ?_⟩
  rw [hregs k, ← hb j]
  split_ifs <;> rfl

/-- A result and then a flag (R159): every register after it; VF ends as the flag, whatever the destination. -/
theorem exec_writeWithFlag_toNat {r c : Nat} (h : exec i s = .next (s.writeWithFlag x b f).advance)
    (hb : b.toNat = r) (hf : (bit f).toNat = c) :
    ∃ t, exec i s = .next t ∧ regsAndPc s t (s.pc + 2) ∧
      ∀ k, (t.readV k).toNat = if k = 0xF#4 then c else if k = x then r else (s.readV k).toNat := by
  refine ⟨_, h, regsAndPc_writeWithFlag, fun k => ?_⟩
  rw [State.readV_advance, State.readV_writeWithFlag, ← hb, ← hf]
  split_ifs <;> rfl

end

/-! ## Results and flags as numbers (R166 to R170) -/

section
variable (a b : Byte)

theorem Byte.sub_toNat : (a - b).toNat = (a.toNat + 256 - b.toNat) % 256 := by
  have := b.isLt
  rw [BitVec.toNat_sub]
  omega

theorem Byte.shiftRight_one_toNat : (a >>> 1).toNat = a.toNat / 2 := by
  rw [BitVec.toNat_ushiftRight, Nat.shiftRight_eq_div_pow, Nat.pow_one]

theorem Byte.shiftLeft_one_toNat : (a <<< 1).toNat = a.toNat * 2 % 256 := by
  rw [BitVec.toNat_shiftLeft, Nat.shiftLeft_eq, Nat.pow_one]

theorem bit_carryOut_toNat : (bit (carryOut a b)).toNat = if a.toNat + b.toNat > 255 then 1 else 0 := by
  simp [carryOut]

theorem bit_borrowFlag_toNat (mode : SubFlagMode) : (bit (borrowFlag mode a b)).toNat =
    match mode with
    | .notBorrow => if a.toNat ≥ b.toNat then 1 else 0
    | .borrow => if a.toNat < b.toNat then 1 else 0 := by
  cases mode <;> simp [borrowFlag]

/-- The bit below a shift right is the operand's parity. -/
theorem bit_shiftedOutRight_toNat : (bit (shiftedOutRight a)).toNat = a.toNat % 2 := by
  rw [bit_toNat, shiftedOutRight, BitVec.getLsbD, Nat.testBit_zero]
  rcases Nat.mod_two_eq_zero_or_one a.toNat with h | h <;> simp [h]

/-- The bit above a shift left is what 128 leaves of the operand. -/
theorem bit_shiftedOutLeft_toNat : (bit (shiftedOutLeft a)).toNat = a.toNat / 128 := by
  have := a.isLt
  have htop : shiftedOutLeft a = decide (128 ≤ a.toNat) := BitVec.msb_eq_decide a
  rw [bit_toNat, htop]
  simp only [decide_eq_true_eq]
  split_ifs <;> omega

theorem State.shiftOperand_toNat (s : State) (x y : Nibble) : (s.shiftOperand x y).toNat =
    match s.cfg.shiftSource with
    | .vx => (s.readV x).toNat
    | .vy => (s.readV y).toNat := by
  unfold State.shiftOperand
  cases s.cfg.shiftSource <;> rfl

end

/-! ## The statements -/

/-- Settles O43: each load is one register write. -/
theorem registerLoads : Obligations.RegisterLoads := by
  refine ⟨encodedAs_pattern (.ldImm 0 0), encodedAs_pattern (.ldReg 0 0), fun s x y kk => ⟨?_, ?_⟩⟩
  · exact exec_writeV_readV rfl
  · exact exec_writeV_readV rfl

/-- Settles O44: one register write, of the wrapped sum. -/
theorem addImmediate : Obligations.AddImmediate := by
  refine ⟨encodedAs_pattern (.addImm 0 0), fun s x kk => ?_⟩
  obtain ⟨t, ht, hframe, hregs⟩ := exec_writeV_readV (i := .addImm x kk) (s := s) rfl
  refine ⟨t, ht, hframe, fun k => ?_⟩
  rw [hregs k, ← BitVec.toNat_add]
  split_ifs <;> rfl

/-- Settles O45: each operation is one register write, of the operands' bits combined. -/
theorem logicOperations : Obligations.LogicOperations := by
  refine ⟨encodedAs_pattern (.orReg 0 0), encodedAs_pattern (.andReg 0 0), encodedAs_pattern (.xorReg 0 0),
    fun s x y => ⟨?_, ?_, ?_⟩⟩
  · exact exec_writeV_getLsbD rfl fun j => BitVec.getLsbD_or
  · exact exec_writeV_getLsbD rfl fun j => BitVec.getLsbD_and
  · exact exec_writeV_getLsbD rfl fun j => BitVec.getLsbD_xor

/-- Settles O46: the wrapped sum and then the carry. -/
theorem addWithCarry : Obligations.AddWithCarry :=
  ⟨encodedAs_pattern (.addReg 0 0), fun s x y =>
    exec_writeWithFlag_toNat rfl (BitVec.toNat_add _ _) (bit_carryOut_toNat (s.readV x) (s.readV y))⟩

/-- Settles O47: the wrapped difference and then the borrow indicator; SUBN is SUB with the operands exchanged. -/
theorem subtractWithBorrow : Obligations.SubtractWithBorrow := by
  refine ⟨encodedAs_pattern (.sub 0 0), encodedAs_pattern (.subn 0 0), fun s x y => ⟨?_, ?_⟩⟩
  · exact exec_writeWithFlag_toNat rfl (Byte.sub_toNat _ _) (bit_borrowFlag_toNat (s.readV x) (s.readV y) _)
  · exact exec_writeWithFlag_toNat rfl (Byte.sub_toNat _ _) (bit_borrowFlag_toNat (s.readV y) (s.readV x) _)

/-- Settles O48: the shifted operand and then the bit it loses. -/
theorem shiftsByOne : Obligations.ShiftsByOne := by
  refine ⟨encodedAs_pattern (.shr 0 0), encodedAs_pattern (.shl 0 0), fun s x y a ha => ?_⟩
  obtain rfl : a = (s.shiftOperand x y).toNat := ha.trans (State.shiftOperand_toNat s x y).symm
  constructor
  · exact exec_writeWithFlag_toNat rfl (Byte.shiftRight_one_toNat _) (bit_shiftedOutRight_toNat _)
  · exact exec_writeWithFlag_toNat rfl (Byte.shiftLeft_one_toNat _) (bit_shiftedOutLeft_toNat _)

/-- Settles O49: one register write, of the step's random byte masked bit by bit. -/
theorem randomMasked : Obligations.RandomMasked :=
  ⟨encodedAs_pattern (.rnd 0 0), fun _ _ _ => exec_writeV_getLsbD rfl fun _ => BitVec.getLsbD_and⟩

end Sys2Proof

/-! Clearing the frame buffer (43_display.md R190). -/

namespace Sys2Proof

open Sys2Proof.Machine Sys2Proof.Claims

/-- What CLS answers: whatever the frame buffer and DIRTY held, a blank screen and DIRTY set (R190). -/
theorem exec_cls (s : State) :
    exec .cls s = .next { s with fb := blankScreen, dirty := true, pc := s.pc + 2 } := rfl

/-- Settles O50: the screen CLS leaves is blank, so every pixel reads off. -/
theorem clearScreen : Obligations.ClearScreen := by
  refine ⟨encodedAs_pattern .cls, fun s => ⟨_, exec_cls s, rfl, fun r c => ?_⟩⟩
  exact FrameBuffer.pixel_blankScreen r c

end Sys2Proof

/-! The key pad and the timers (44_keys_timers.md): the tick that ends a step (40_execution_cycle.md R262), the moves between
a register and a timer, and the wait for a key. -/

namespace Sys2Proof

open Sys2Proof.Machine Sys2Proof.Claims

/-! ## The tick and the step it ends (R123, R262) -/

section
variable {s t : State} {i : Instr}

theorem State.tickDue_iff : s.tickDue = true ↔ tickCondition s := by
  simp [State.tickDue, tickCondition]

/-- A tick that fires counts both timers down, not below 0, and takes the time. -/
theorem State.tick_of_tickCondition (h : tickCondition s) : s.tick = { s with
    dt := countDown s.dt, st := countDown s.st, lastTick := s.now } := by
  simp [State.tick, State.tickDue_iff.mpr h]

/-- A tick that does not fire changes nothing. -/
theorem State.tick_of_not_tickCondition (h : ¬tickCondition s) : s.tick = s := by
  simp [State.tick, mt State.tickDue_iff.mp h]

/-- What DT and LAST_TICK are after the tick, by whether it fires. -/
theorem State.tick_dt_lastTick (s : State) :
    (tickCondition s → s.tick.dt.toNat = s.dt.toNat - 1 ∧ s.tick.lastTick = s.now) ∧
    (¬tickCondition s → s.tick.dt = s.dt ∧ s.tick.lastTick = s.lastTick) := by
  refine ⟨fun hfires => ?_, fun hquiet => ?_⟩
  · rw [State.tick_of_tickCondition hfires]
    exact ⟨countDown_toNat s.dt, rfl⟩
  · rw [State.tick_of_not_tickCondition hquiet]
    exact ⟨rfl, rfl⟩

/-- What ST and LAST_TICK are after the tick, by whether it fires. -/
theorem State.tick_st_lastTick (s : State) :
    (tickCondition s → s.tick.st.toNat = s.st.toNat - 1 ∧ s.tick.lastTick = s.now) ∧
    (¬tickCondition s → s.tick.st = s.st ∧ s.tick.lastTick = s.lastTick) := by
  refine ⟨fun hfires => ?_, fun hquiet => ?_⟩
  · rw [State.tick_of_tickCondition hfires]
    exact ⟨countDown_toNat s.st, rfl⟩
  · rw [State.tick_of_not_tickCondition hquiet]
    exact ⟨rfl, rfl⟩

/-- The step of an instruction that keeps STATUS completes: the tick, the end of the step and the host's turn follow it. -/
theorem step_of_completing (hs : runsNext s i) (h : exec i s = .next t) (hstatus : t.status = s.status) :
    step s = .next t.tick.endStep.hostTurn := by
  rw [step_of_runsNext hs h]
  obtain ⟨hrun, -⟩ := hs
  rw [State.complete_running (hstatus.trans hrun)]

end

/-! ## The moves between a register and a timer (R212, R214, R215) -/

section
variable (s : State) (x : Nibble)

theorem exec_ldVxDt : exec (.ldVxDt x) s = .next (s.writeV x s.dt).advance := rfl

theorem exec_ldDtVx : exec (.ldDtVx x) s = .next { s with dt := s.readV x, pc := s.pc + 2 } := rfl

theorem exec_ldStVx : exec (.ldStVx x) s = .next { s with st := s.readV x, pc := s.pc + 2 } := rfl

end

/-- Settles O53: each move is said by its own equation; the step ends with the tick of the state the move answers, which
counts a timer just set and leaves the general registers alone. -/
theorem timerMoves : Obligations.TimerMoves := by
  refine ⟨encodedAs_pattern (.ldVxDt 0), encodedAs_pattern (.ldDtVx 0), encodedAs_pattern (.ldStVx 0), fun s x =>
    ⟨exec_writeV_readV (exec_ldVxDt s x), exec_ldDtVx s x, exec_ldStVx s x, fun hs => ?_, fun hs => ?_, fun hs => ?_⟩⟩
  · refine ⟨_, step_of_completing hs (exec_ldVxDt s x) rfl, ?_⟩
    have hregs : (s.writeV x s.dt).readV x = s.dt := by rw [State.readV_writeV, if_pos rfl]
    exact hregs
  · refine ⟨_, step_of_completing hs (exec_ldDtVx s x) rfl, ?_⟩
    exact State.tick_dt_lastTick { s with dt := s.readV x, pc := s.pc + 2 }
  · refine ⟨_, step_of_completing hs (exec_ldStVx s x) rfl, rfl, ?_⟩
    exact State.tick_st_lastTick { s with st := s.readV x, pc := s.pc + 2 }

/-! ## The lowest pressed key (R213) -/

section
variable {key : Vector Bool 16} {s : State} {x : Nibble}

/-- The search finds nothing where no key it looks at is pressed. -/
theorem lowestKey_eq_none {n k : Nat} (h : ∀ j, k ≤ j → j < k + n → key.toList.getD j false = false) :
    lowestKey key n k = none := by
  induction n generalizing k with
  | zero => rfl
  | succ n ih =>
    have hk : key.toList.getD k false = false := h k le_rfl (by omega)
    rw [lowestKey, if_neg (Bool.eq_false_iff.mp hk)]
    exact ih fun j hle hlt => h j (by omega) (by omega)

/-- The search finds a pressed key it looks at when it looks at no pressed key before it. -/
theorem lowestKey_eq_some {n k m : Nat} (hkm : k ≤ m) (hmn : m < k + n) (hm : key.toList.getD m false = true)
    (hlow : ∀ j, k ≤ j → j < m → key.toList.getD j false = false) : lowestKey key n k = some m := by
  induction n generalizing k with
  | zero => omega
  | succ n ih =>
    rw [lowestKey]
    obtain rfl | hlt := hkm.eq_or_lt
    · rw [if_pos hm]
    · have hk : key.toList.getD k false = false := hlow k le_rfl hlt
      rw [if_neg (Bool.eq_false_iff.mp hk)]
      exact ih hlt (by omega) fun j hle hjm => hlow j (by omega) hjm

theorem getD_toList_key {j : Nat} (hj : j < 16) : key.toList.getD j false = key[j]'hj := by
  simp [List.getD, hj]

theorem State.firstKey?_eq_none (h : ∀ (k : Nat) (hk : k < 16), s.key[k]'hk = false) : s.firstKey? = none := by
  rw [State.firstKey?_eq]
  refine lowestKey_eq_none fun j _ hj => ?_
  rw [getD_toList_key (by omega), h]

theorem State.firstKey?_eq_some {k : Nat} (hk : k < 16) (hpressed : s.key[k]'hk = true)
    (hlow : ∀ (j : Nat) (hj : j < 16), j < k → s.key[j]'hj = false) : s.firstKey? = some k := by
  rw [State.firstKey?_eq]
  refine lowestKey_eq_some (Nat.zero_le k) (by omega) ?_ fun j _ hjk => ?_
  · rw [getD_toList_key hk, hpressed]
  · rw [getD_toList_key (by omega), hlow j _ hjk]

/-! ## The wait for a key (R213) -/

theorem exec_ldVxK_of_none (h : s.firstKey? = none) : exec (.ldVxK x) s = .next s := by
  change execLdVxK x s = _
  rw [execLdVxK, h]

theorem exec_ldVxK_of_some {k : Nat} (h : s.firstKey? = some k) :
    exec (.ldVxK x) s = .next (s.writeV x (BitVec.ofNat 8 k)).advance := by
  change execLdVxK x s = _
  rw [execLdVxK, h]

end

/-- Settles O54, by whether the search finds a key: without one the state itself is what the step's tick ends; with one the
wait is a single register write. -/
theorem waitForKey : Obligations.WaitForKey := by
  refine ⟨encodedAs_pattern (.ldVxK 0), fun s x => ⟨fun hnone => ?_, fun k hk hpressed hlow => ?_⟩⟩
  · have hexec : exec (.ldVxK x) s = .next s := exec_ldVxK_of_none (State.firstKey?_eq_none hnone)
    refine ⟨hexec, fun hs => ⟨_, step_of_completing hs hexec rfl, ?_⟩⟩
    obtain ⟨hrun, -⟩ := hs
    exact ⟨hrun, rfl, rfl, rfl, rfl, rfl⟩
  · have hexec := exec_ldVxK_of_some (x := x) (State.firstKey?_eq_some hk hpressed hlow)
    obtain ⟨t, ht, hframe, hregs⟩ := exec_writeV_readV hexec
    refine ⟨t, ht, hframe, fun r => ?_⟩
    have hbyte : (BitVec.ofNat 8 k).toNat = k := by
      rw [BitVec.toNat_ofNat]
      omega
    rw [hregs r, apply_ite BitVec.toNat, hbyte]

end Sys2Proof

/-! The address register and memory (45_address_memory.md): the instructions that write I alone, and those that move bytes
between the general registers and memory, each of which checks its last address first (20_memory.md R63). -/

namespace Sys2Proof

open Sys2Proof.Machine Sys2Proof.Claims

/-! ## The values written to I and VF (R231, R232, R234, R235) -/

theorem Word.add_zextByte_toNat (i : Word) (b : Byte) : (i + zextByte b).toNat = (i.toNat + b.toNat) % 65536 := by
  rw [BitVec.toNat_add, zextByte_toNat]

theorem bit_addIOverflow_toNat (limit : Nat) (i : Word) (b : Byte) :
    (bit (addIOverflow limit i b)).toNat = if i.toNat + b.toNat > limit then 1 else 0 := by
  simp [addIOverflow]

theorem fontDigit_le (mode : FontDigitMode) (b : Byte) : fontDigit mode b ≤ 255 := by
  have := b.isLt
  cases mode <;> simp only [fontDigit] <;> omega

/-- Where the glyph addresses are 16-bit values, none of them wraps (log entry 10). -/
theorem State.glyphAddress_toNat {s : State} (h : s.cfg.fontAddressable = true) (x : Nibble) :
    (s.glyphAddress x).toNat = s.cfg.fontBase + fontDigit s.cfg.fontDigitMode (s.readV x) * s.cfg.fontGlyphSize := by
  have hmax : s.cfg.fontBase + 255 * s.cfg.fontGlyphSize < 65536 := of_decide_eq_true h
  have hdigit := Nat.mul_le_mul_right s.cfg.fontGlyphSize (fontDigit_le s.cfg.fontDigitMode (s.readV x))
  rw [State.glyphAddress, BitVec.toNat_ofNat]
  exact Nat.mod_eq_of_lt (by omega)

theorem State.bumpI_i_toNat (s : State) (n : Nat) :
    (s.bumpI n).i.toNat = if s.cfg.ldstIncrementsI = true then (s.i.toNat + n) % 65536 else s.i.toNat := by
  rw [State.bumpI_eq, State.setI_i, apply_ite BitVec.toNat, BitVec.toNat_ofNat]

theorem State.memRead_bumpI (s : State) (n a : Nat) : (s.bumpI n).memRead a = s.memRead a := by
  rw [State.bumpI_eq, State.memRead_setI]

theorem State.readV_bumpI (s : State) (n : Nat) (k : Nibble) : (s.bumpI n).readV k = s.readV k := by
  rw [State.bumpI_eq, State.readV_setI]

/-! ## Three bytes stored (R233) -/

/-- Memory after bytes are stored at three successive addresses. -/
theorem State.memRead_memWrite_three {s : State} {a : Nat} (b₀ b₁ b₂ : Byte) (h : s.memWf)
    (ha : a + 2 < s.cfg.memSize) (c : Nat) :
    (((s.memWrite a b₀).memWrite (a + 1) b₁).memWrite (a + 2) b₂).memRead c =
      if c = a then b₀ else if c = a + 1 then b₁ else if c = a + 2 then b₂ else s.memRead c := by
  have h₀ : (s.memWrite a b₀).memWf := State.memWf_memWrite a b₀ h
  have h₁ : ((s.memWrite a b₀).memWrite (a + 1) b₁).memWf := State.memWf_memWrite (a + 1) b₁ h₀
  rw [State.memRead_memWrite _ _ _ h₁ ha, State.memRead_memWrite _ _ _ h₀ (Nat.lt_of_succ_lt ha),
    State.memRead_memWrite _ _ _ h (by omega)]
  by_cases hc₂ : c = a + 2
  · simp [hc₂]
  by_cases hc₁ : c = a + 1
  · simp [hc₁]
  · simp [hc₁, hc₂]

/-! ## What each instruction answers -/

section
variable {s : State} {x : Nibble}

/-- An instruction whose fatal condition holds records the error and changes nothing else (R254). -/
theorem exec_eq_faultedAt {i : Instr} {bad : Prop} [Decidable bad] {code : FatalCode} {effect : State}
    (h : exec i s = fatalIf bad code s effect) (hbad : bad) : exec i s = .next (faultedAt s code s.fetch) :=
  h.trans (fatalIf_pos hbad)

theorem exec_ldI (s : State) (nnn : Addr12) :
    exec (.ldI nnn) s = .next { s with i := zextAddr nnn, pc := s.pc + 2 } := rfl

theorem exec_ldF (s : State) (x : Nibble) :
    exec (.ldF x) s = .next { s with i := s.glyphAddress x, pc := s.pc + 2 } := rfl

theorem exec_addI_of_setsVf (h : s.cfg.addISetsVf = true) : exec (.addI x) s =
    .next ((s.setI (s.i + zextByte (s.readV x))).setFlag
      (addIOverflow s.cfg.addIOverflowLimit s.i (s.readV x))).advance :=
  congrArg Host.Outcome.next (if_pos h)

theorem exec_addI_of_not_setsVf (h : ¬s.cfg.addISetsVf = true) :
    exec (.addI x) s = .next (s.setI (s.i + zextByte (s.readV x))).advance :=
  congrArg Host.Outcome.next (if_neg h)

theorem exec_ldB_of_lt (h : s.i.toNat + 2 < s.cfg.memSize) : exec (.ldB x) s =
    .next (((s.memWrite s.i.toNat (hundreds (s.readV x))).memWrite (s.i.toNat + 1) (tens (s.readV x))).memWrite
      (s.i.toNat + 2) (ones (s.readV x))).advance :=
  fatalIf_neg (Nat.not_le.mpr h)

theorem exec_stRegs_of_lt (h : s.i.toNat + x.toNat < s.cfg.memSize) :
    exec (.stRegs x) s = .next ((s.storeRegs (x.toNat + 1)).bumpI (x.toNat + 1)).advance :=
  fatalIf_neg (Nat.not_le.mpr h)

theorem exec_ldRegs_of_lt (h : s.i.toNat + x.toNat < s.cfg.memSize) :
    exec (.ldRegs x) s = .next ((s.loadRegs (x.toNat + 1)).bumpI (x.toNat + 1)).advance :=
  fatalIf_neg (Nat.not_le.mpr h)

end

/-! ## The bulk moves (R234, R235) -/

section
variable (s : State) (n : Nat)

/-- Storing registers and then moving I changes memory and I alone. -/
theorem State.bumpI_storeRegs_eq : (s.storeRegs n).bumpI n =
    { s with mem := ((s.storeRegs n).bumpI n).mem, i := ((s.storeRegs n).bumpI n).i } := by
  rw [State.bumpI_eq, State.storeRegs_eq]
  rfl

/-- Loading registers and then moving I changes V and I alone. -/
theorem State.bumpI_loadRegs_eq : (s.loadRegs n).bumpI n =
    { s with v := ((s.loadRegs n).bumpI n).v, i := ((s.loadRegs n).bumpI n).i } := by
  rw [State.bumpI_eq, State.loadRegs_eq]
  rfl

theorem State.bumpI_storeRegs_i_toNat : ((s.storeRegs n).bumpI n).i.toNat =
    if s.cfg.ldstIncrementsI = true then (s.i.toNat + n) % 65536 else s.i.toNat := by
  rw [State.bumpI_i_toNat, State.storeRegs_eq]

theorem State.bumpI_loadRegs_i_toNat : ((s.loadRegs n).bumpI n).i.toNat =
    if s.cfg.ldstIncrementsI = true then (s.i.toNat + n) % 65536 else s.i.toNat := by
  rw [State.bumpI_i_toNat, State.loadRegs_eq]

end

/-! ## The statements -/

/-- Settles O55: I is the zero-extended address. -/
theorem loadAddress : Obligations.LoadAddress :=
  ⟨encodedAs_pattern (.ldI 0), fun s nnn => ⟨zextAddr nnn, zextAddr_toNat nnn, exec_ldI s nnn⟩⟩

/-- Settles O56, by whether the instruction writes VF. -/
theorem addToAddress : Obligations.AddToAddress := by
  refine ⟨encodedAs_pattern (.addI 0), fun s x => ?_⟩
  have hsum := Word.add_zextByte_toNat s.i (s.readV x)
  by_cases hvf : s.cfg.addISetsVf = true
  · refine ⟨_, exec_addI_of_setsVf hvf, rfl, hsum, fun k => ?_⟩
    rw [State.readV_advance, State.readV_setFlag, State.readV_setI, apply_ite BitVec.toNat, bit_addIOverflow_toNat]
    simp only [hvf, and_true]
    rfl
  · refine ⟨_, exec_addI_of_not_setsVf hvf, rfl, hsum, fun k => ?_⟩
    rw [if_neg fun ⟨_, h⟩ => hvf h]
    rfl

/-- Settles O57: the glyph's address, which does not wrap where all glyph addresses are 16-bit values. -/
theorem loadGlyphAddress : Obligations.LoadGlyphAddress := by
  refine ⟨encodedAs_pattern (.ldF 0), fun s x => ⟨s.glyphAddress x, exec_ldF s x, fun haddr => ?_⟩⟩
  exact State.glyphAddress_toNat haddr x

/-- Settles O58: the digits are three bytes stored in succession, and the check is on the last address. -/
theorem storeBcd : Obligations.StoreBcd := by
  refine ⟨encodedAs_pattern (.ldB 0), fun s x hwf => ⟨fun hlt => ?_, exec_eq_faultedAt rfl⟩⟩
  refine ⟨_, exec_ldB_of_lt hlt, rfl, fun a => ?_⟩
  rw [State.memRead_advance, State.memRead_memWrite_three _ _ _ hwf hlt]
  simp only [apply_ite BitVec.toNat, hundreds_toNat, tens_toNat, ones_toNat]

/-- Settles O59: the registers stored occupy the x + 1 bytes from I, and the check is on the last address. -/
theorem storeRegisters : Obligations.StoreRegisters := by
  refine ⟨encodedAs_pattern (.stRegs 0), fun s x hwf => ⟨fun hlt => ?_, exec_eq_faultedAt rfl⟩⟩
  have hmem (a : Nat) := State.memRead_storeRegs (s := s) (x.toNat + 1) x.isLt hwf hlt a
  refine ⟨_, exec_stRegs_of_lt hlt, ?_, State.bumpI_storeRegs_i_toNat s _, fun k hk => ?_, fun a ha => ?_⟩
  · rw [State.bumpI_storeRegs_eq]
    rfl
  · rw [State.memRead_advance, State.memRead_bumpI, hmem, if_pos (by omega), Nat.add_sub_cancel_left,
      BitVec.ofNat_toNat, BitVec.setWidth_eq]
  · rw [State.memRead_advance, State.memRead_bumpI, hmem, if_neg (by omega)]

/-- Settles O60: the registers loaded are those of index at most x, and the check is on the last address. -/
theorem loadRegisters : Obligations.LoadRegisters := by
  refine ⟨encodedAs_pattern (.ldRegs 0), fun s x => ⟨fun hlt => ?_, exec_eq_faultedAt rfl⟩⟩
  refine ⟨_, exec_ldRegs_of_lt hlt, ?_, State.bumpI_loadRegs_i_toNat s _, fun k => ?_⟩
  · rw [State.bumpI_loadRegs_eq]
    rfl
  · rw [State.readV_advance, State.readV_bumpI, State.readV_loadRegs s _ x.isLt]
    simp only [Nat.lt_succ_iff]

end Sys2Proof

/-! The timer tick (40_execution_cycle.md R262): its condition, its effect, and the step it ends. -/

namespace Sys2Proof

open Sys2Proof.Machine Sys2Proof.Claims

/-- Settles O13: a tick that fires writes the two timers and LAST_TICK alone, one that does not fire is the identity, and
nothing that follows the tick in a completing step writes what it wrote. -/
theorem timerTick : Obligations.TimerTick := by
  refine ⟨fun s => ⟨fun hfires => ?_, State.tick_of_not_tickCondition⟩, fun s t u i hs hexec ht hstep => ?_⟩
  · rw [State.tick_of_tickCondition hfires]
    exact ⟨rfl, countDown_toNat s.dt, countDown_toNat s.st⟩
  · rw [step_of_runsNext hs hexec, State.complete_running ht] at hstep
    cases hstep
    exact ⟨rfl, rfl, rfl⟩

end Sys2Proof

/-! Decoding and encoding (30_encoding.md R84, R88): the fields of an encoded word are the instruction's operands, so the
decoder reads every instruction back; and a word selects exactly the row it decodes to. -/

namespace Sys2Proof

open Sys2Proof.Machine Sys2Proof.Claims

/-! ## The fields of an encoded word (R81, R84) -/

section
variable (c x : Nibble) (kk : Byte) (nnn : Addr12)

@[simp] theorem Fields.ofWord_wordOfByteForm_c : (ofWord (wordOfByteForm c x kk)).c = c :=
  ofWord_wordOfNibbles_c ..

@[simp] theorem Fields.ofWord_wordOfByteForm_x : (ofWord (wordOfByteForm c x kk)).x = x :=
  ofWord_wordOfNibbles_x ..

@[simp] theorem Fields.ofWord_wordOfByteForm_kk : (ofWord (wordOfByteForm c x kk)).kk = kk :=
  (ofWord_kk_eq_iff _ _).mpr ⟨ofWord_wordOfNibbles_y .., ofWord_wordOfNibbles_n ..⟩

@[simp] theorem Fields.ofWord_wordOfAddressForm_c : (ofWord (wordOfAddressForm c nnn)).c = c :=
  ofWord_wordOfNibbles_c ..

@[simp] theorem Fields.ofWord_wordOfAddressForm_nnn : (ofWord (wordOfAddressForm c nnn)).nnn = nnn := by
  apply BitVec.eq_of_toNat_eq
  simp only [wordOfAddressForm, ofWord_wordOfNibbles_nnn_toNat, BitVec.extractLsb'_toNat, Nat.shiftRight_eq_div_pow]
  omega

end

/-! ## Decode of encode -/

/-- The encoded word selects the instruction's own row, in either mode. -/
theorem rowMatches_encode (strict : Bool) (i : Instr) : i.rowMatches strict (Fields.ofWord (encode i)) := by
  cases i <;> simp [Instr.rowMatches, encode]

/-- The fields of the encoded word are the instruction's own operands. -/
theorem withOperands_encode (i : Instr) : i.withOperands (Fields.ofWord (encode i)) = i := by
  cases i <;> simp [Instr.withOperands, encode]

theorem decodeWord_encode (strict : Bool) (i : Instr) : decodeWord strict (encode i) = some i := by
  rw [decodeWord, dispatch_eq_withOperands (rowMatches_encode strict i), withOperands_encode]

/-- Settles O3: the two bytes are the encoded word, which selects the instruction's row and carries its operands. -/
theorem decodeOfEncode : Obligations.DecodeOfEncode := by
  intro strict i rest
  change decode strict (highByte (encode i) :: lowByte (encode i) :: rest) = _
  rw [decode, wordOfBytes_highByte_lowByte, decodeWord_encode]

/-! ## Rows and dispatch (R88) -/

/-- Settles O4: to select a row and to match it by the fields are the same, and dispatch selects one instruction, whose
row the fields match. -/
theorem dispatchFollowsOpcodeMap : Obligations.DispatchFollowsOpcodeMap := by
  have hrow (strict : Bool) (w : Word) (j : Instr) (h : j.pattern.selectedBy strict w) :
      ∃ i, decodeWord strict w = some i ∧ i.pattern = j.pattern :=
    dispatch_of_rowMatches (j.selectedBy_iff_rowMatches.mp h)
  refine ⟨fun strict w j => ⟨hrow strict w j, ?_⟩, fun strict w i j hi hj => ?_⟩
  · rintro ⟨i, hi, hpattern⟩
    rw [← hpattern, i.selectedBy_iff_rowMatches]
    exact rowMatches_of_dispatch hi
  · obtain ⟨i', hi', hpi⟩ := hrow strict w i hi
    obtain ⟨j', hj', hpj⟩ := hrow strict w j hj
    obtain rfl : i' = j' := Option.some.inj (hi'.symm.trans hj')
    exact hpi.symm.trans hpj

/-- Settles O6: each word is a literal, so dispatch computes. -/
theorem sampleWordsDecode : Obligations.SampleWordsDecode := by
  unfold Obligations.SampleWordsDecode
  decide

end Sys2Proof

/-! Memory and load (20_memory.md R61 to R71, 70_reset_and_hazards.md R280 to R284): a read after a write, the canonical
form as data, and the state that load and reset leave. -/

namespace Sys2Proof

open Sys2Proof.Machine Sys2Proof.Claims

/-! ## Reads, writes and fetches -/

/-- Settles O33: the read of a byte just written, at its own address and at another. -/
theorem readAfterWrite : Obligations.ReadAfterWrite := by
  intro s a c b hwf ha
  refine ⟨?_, fun hc => ?_, State.memWf_memWrite a b hwf⟩
  · rw [State.memRead_memWrite a a b hwf ha, if_pos rfl]
  · rw [State.memRead_memWrite a c b hwf ha, if_neg hc]

/-- Settles O34: the fetch reads two bytes, one of which is the byte just written. -/
theorem fetchSeesStores : Obligations.FetchSeesStores := by
  intro s a b hwf ha
  have hhigh (c : Nat) := State.memRead_memWrite a c b hwf (Nat.lt_of_succ_lt ha)
  have hlow (c : Nat) := State.memRead_memWrite (a + 1) c b hwf ha
  constructor
  · rw [State.fetchAt_of_lt (s := s.memWrite a b) ha, hhigh, hhigh, if_pos rfl, if_neg (by omega)]
  · rw [State.fetchAt_of_lt (s := s.memWrite (a + 1) b) ha, hlow, hlow, if_neg (by omega), if_pos rfl]

/-! ## The canonical form as data (log entry 7) -/

section
variable {cfg : Cfg} {low k k' a : Nat} {b b' : Byte} {m m' : Memory}

theorem Memory.risesFrom_cons :
    Memory.risesFrom low ((k, b) :: m) = true ↔ low ≤ k ∧ Memory.risesFrom (k + 1) m = true := by
  simp [Memory.risesFrom]

/-- An address below every cell reads as nothing has written it. -/
theorem Memory.read_of_lt (h : Memory.risesFrom low m = true) (ha : a < low) :
    Memory.read cfg m a = initialByte cfg a := by
  induction m generalizing low with
  | nil => rfl
  | cons cell m ih =>
    obtain ⟨hle, hrest⟩ := Memory.risesFrom_cons.mp h
    rw [Memory.read, if_neg (by omega)]
    exact ih hrest (by omega)

/-- The canonical form (`Memory.wf`) of the cells from an address on. -/
structure Memory.CanonicalFrom (cfg : Cfg) (low : Nat) (m : Memory) : Prop where
  rises : Memory.risesFrom low m = true
  written : ∀ cell ∈ m, cell.1 < cfg.memSize ∧ cell.2 ≠ initialByte cfg cell.1

theorem Memory.CanonicalFrom.of_wf (h : Memory.wf cfg m = true) : Memory.CanonicalFrom cfg 0 m := by
  obtain ⟨hrises, hwritten⟩ := (Memory.wf_iff cfg m).mp h
  exact ⟨hrises, hwritten⟩

theorem Memory.CanonicalFrom.tail (h : Memory.CanonicalFrom cfg low ((k, b) :: m)) :
    Memory.CanonicalFrom cfg (k + 1) m := by
  obtain ⟨-, hrest⟩ := Memory.risesFrom_cons.mp h.rises
  exact ⟨hrest, fun cell hcell => h.written cell (List.mem_cons_of_mem _ hcell)⟩

/-- The first cell of a canonical memory tells it from every memory without a cell up to its address. -/
theorem Memory.CanonicalFrom.exists_read_ne (h : Memory.CanonicalFrom cfg low ((k, b) :: m))
    (h' : Memory.risesFrom (k + 1) m' = true) :
    ∃ a, a < cfg.memSize ∧ Memory.read cfg ((k, b) :: m) a ≠ Memory.read cfg m' a := by
  obtain ⟨hk, hb⟩ := h.written (k, b) List.mem_cons_self
  refine ⟨k, hk, ?_⟩
  rwa [Memory.read_of_lt h' (Nat.lt_succ_self k), Memory.read, if_pos rfl]

/-- Memories with the same first cell that read alike have rests that read alike. -/
theorem Memory.read_tail_eq (hm : Memory.risesFrom (k + 1) m = true) (hm' : Memory.risesFrom (k + 1) m' = true)
    (h : Memory.read cfg ((k, b) :: m) a = Memory.read cfg ((k, b') :: m') a) :
    Memory.read cfg m a = Memory.read cfg m' a := by
  by_cases ha : a < k + 1
  · rw [Memory.read_of_lt hm ha, Memory.read_of_lt hm' ha]
  · rwa [Memory.read, Memory.read, if_neg (by omega), if_neg (by omega)] at h

theorem Memory.CanonicalFrom.ext {low' : Nat} (hm : Memory.CanonicalFrom cfg low m)
    (hm' : Memory.CanonicalFrom cfg low' m')
    (h : ∀ a, a < cfg.memSize → Memory.read cfg m a = Memory.read cfg m' a) : m = m' := by
  induction m generalizing m' low low' with
  | nil =>
    cases m' with
    | nil => rfl
    | cons cell' m' =>
      obtain ⟨a, ha, hne⟩ := hm'.exists_read_ne (m' := []) rfl
      exact absurd (h a ha).symm hne
  | cons cell m ih =>
    obtain ⟨k, b⟩ := cell
    cases m' with
    | nil =>
      obtain ⟨a, ha, hne⟩ := hm.exists_read_ne (m' := []) rfl
      exact absurd (h a ha) hne
    | cons cell' m' =>
      obtain ⟨k', b'⟩ := cell'
      have hrest := hm.tail
      have hrest' := hm'.tail
      obtain hlt | rfl | hgt := Nat.lt_trichotomy k k'
      · obtain ⟨a, ha, hne⟩ := hm.exists_read_ne (Memory.risesFrom_cons.mpr ⟨hlt, hrest'.rises⟩)
        exact absurd (h a ha) hne
      · obtain ⟨hk, -⟩ := hm.written (k, b) List.mem_cons_self
        have hb : b = b' := by simpa [Memory.read] using h k hk
        rw [hb, ih hrest hrest' fun a ha => Memory.read_tail_eq hrest.rises hrest'.rises (h a ha)]
      · obtain ⟨a, ha, hne⟩ := hm'.exists_read_ne (Memory.risesFrom_cons.mpr ⟨hgt, hrest.rises⟩)
        exact absurd (h a ha).symm hne

end

/-- Settles O35, by induction on the cells: the lower of two differing first cells would be read. -/
theorem canonicalMemoryIsExtensional : Obligations.CanonicalMemoryIsExtensional :=
  fun _ _ _ hwf hwf' => Memory.CanonicalFrom.ext (.of_wf hwf) (.of_wf hwf')

/-! ## Load (R280) -/

section
variable {cfg : Cfg} {image : List Byte} {t0 : Nat} {s : State}

theorem load_of_fits (t0 : Nat) (h : cfg.loadAddr + image.length ≤ cfg.memSize) : load cfg image t0 =
    .ok (State.afterLoad cfg (Memory.writeBytes cfg [] cfg.loadAddr image) image.length t0) :=
  if_pos (decide_eq_true h)

theorem load_of_not_fits (t0 : Nat) (h : ¬cfg.loadAddr + image.length ≤ cfg.memSize) :
    load cfg image t0 = .loadError image.length :=
  if_neg (by simpa [imageFits] using h)

/-- Load gives a machine only for an image that fits, and then the one it describes. -/
theorem fits_of_load (h : load cfg image t0 = .ok s) : cfg.loadAddr + image.length ≤ cfg.memSize ∧
    s = State.afterLoad cfg (Memory.writeBytes cfg [] cfg.loadAddr image) image.length t0 := by
  by_cases hfits : cfg.loadAddr + image.length ≤ cfg.memSize
  · rw [load_of_fits t0 hfits] at h
    cases h
    exact ⟨hfits, rfl⟩
  · simp [load_of_not_fits t0 hfits] at h

theorem initialByte_eq (cfg : Cfg) (a : Nat) : initialByte cfg a =
    if cfg.fontBase ≤ a ∧ a < cfg.fontBase + cfg.fontTable.length then cfg.fontTable.getD (a - cfg.fontBase) 0
    else 0 := by
  unfold initialByte
  by_cases hlow : cfg.fontBase ≤ a
  · by_cases hhigh : a < cfg.fontBase + cfg.fontTable.length
    · rw [if_pos hlow, if_pos ⟨hlow, hhigh⟩]
      rfl
    · rw [if_pos hlow, if_neg fun h => hhigh h.2]
      exact List.getD_eq_default _ _ (by omega)
  · rw [if_neg hlow, if_neg fun h => hlow h.1]
    rfl

/-- Memory after bytes are written at ascending addresses: each byte in its place, every other address as before. -/
theorem Memory.read_writeBytes {m : Memory} {a : Nat} (bs : List Byte) (h : Memory.wf cfg m = true)
    (ha : a + bs.length ≤ cfg.memSize) (c : Nat) : Memory.read cfg (Memory.writeBytes cfg m a bs) c =
      if a ≤ c ∧ c < a + bs.length then bs.getD (c - a) 0 else Memory.read cfg m c := by
  induction bs generalizing m a with
  | nil => rw [Memory.writeBytes, if_neg (by simp)]
  | cons b bs ih =>
    rw [List.length_cons] at ha ⊢
    rw [Memory.writeBytes, ih (Memory.wf_write a b h) (by omega), Memory.read_write a c b h (by omega)]
    obtain hlt | rfl | hgt := Nat.lt_trichotomy c a
    · rw [if_neg (by omega), if_neg (by omega), if_neg (by omega)]
    · rw [if_neg (by omega), if_pos rfl, if_pos (by omega), Nat.sub_self, List.getD_cons_zero]
    · have hsub : c - a = (c - (a + 1)) + 1 := by omega
      rw [if_neg (show c ≠ a by omega), hsub, List.getD_cons_succ]
      exact if_congr (by omega) rfl rfl

/-- Settles O18: an image fits or not; memory is the image written over the font and zeros, and every other piece of
state is as the load writes it. -/
theorem loadLeavesState : Obligations.LoadLeavesState := by
  intro cfg image t0 haddr
  refine ⟨fun hlong => load_of_not_fits t0 (by omega), fun hshort => ?_⟩
  have hfits : cfg.loadAddr + image.length ≤ cfg.memSize := by omega
  refine ⟨_, load_of_fits t0 hfits, fun a _ => ?_, fun k => ?_, rfl, rfl, fun k hk => ?_, rfl, rfl,
    FrameBuffer.pixel_blankScreen, rfl, fun k hk => ?_, rfl, rfl, rfl, rfl, rfl⟩
  · rw [← initialByte_eq]
    exact Memory.read_writeBytes image (Memory.wf_nil cfg) hfits a
  · exact Vector.getElem_replicate _
  · exact Vector.getElem_replicate _
  · exact Vector.getElem_replicate _

/-! ## The invariant after load and reset (R280, R284) -/

theorem Cfg.memSize_le (h : cfg.wellFormed = true) : cfg.memSize ≤ 0x1000 := by
  simp only [Cfg.wellFormed, Cfg.memoryFits, Bool.and_eq_true, decide_eq_true_eq] at h
  obtain ⟨⟨⟨⟨hmemory, -⟩, -⟩, -⟩, -⟩ := h
  exact hmemory

theorem Cfg.loadAddr_le (h : cfg.wellFormed = true) : cfg.loadAddr ≤ cfg.memSize := by
  simp only [Cfg.wellFormed, Cfg.loadAddrFits, Bool.and_eq_true, decide_eq_true_eq] at h
  obtain ⟨⟨⟨⟨-, hload⟩, -⟩, -⟩, -⟩ := h
  exact hload

end

/-- Settles O21: the image's bytes keep the canonical form, and `pc` and END lie in memory. -/
theorem loadGivesInvariant : Obligations.LoadGivesInvariant := by
  intro cfg image t0 s hcfg hload
  obtain ⟨hfits, rfl⟩ := fits_of_load hload
  have hsize := Cfg.memSize_le hcfg
  exact {
    cfgOk := hcfg
    memOk := Memory.wf_writeBytes _ image (Memory.wf_nil cfg)
    clean := rfl
    timeOk := Nat.le_add_right _ _
    endOk := (Nat.mod_le _ _).trans hfits
    stackOk := fun k _ hk => absurd hk (Nat.not_lt_zero k)
    pcOk := (Nat.mod_le _ _).trans (by omega)
    haltOk := nofun
    faultOk := nofun
    outOk := rfl
    soundOk := rfl }

/-- Settles O20: the image is empty, so every byte read is an unwritten one. -/
theorem resetIsEmptyLoad : Obligations.ResetIsEmptyLoad := by
  refine ⟨load_of_fits 0 (by decide), rfl, rfl, rfl, rfl, ?_, ?_, ?_, ?_⟩
  · exact initialByte_eq defaultCfg 0x000
  · exact initialByte_eq defaultCfg 0x04F
  · exact initialByte_eq defaultCfg 0x050
  · exact initialByte_eq defaultCfg 0xFFF

/-- Settles O22: reset is a load in the default configuration, which is well-formed. -/
theorem invariantAtReset : Obligations.InvariantAtReset :=
  loadGivesInvariant defaultCfg [] 0 State.reset (by decide) (load_of_fits 0 (by decide))

/-- Settles O19: END is the load address, where `pc` stands. -/
theorem emptyImageHalts : Obligations.EmptyImageHalts := by
  intro cfg t0 hcfg
  exact ⟨_, _, load_of_fits t0 (Cfg.loadAddr_le hcfg), rfl, step_atEnd rfl le_rfl, rfl, rfl⟩

end Sys2Proof

/-! The step by its cases (40_execution_cycle.md R122 to R131, 60_exceptions.md R254, R264): what each leaves of STATUS, the
timers, END, the configuration and the outputs. -/

namespace Sys2Proof

open Sys2Proof.Machine Sys2Proof.Claims

/-! ## Fetch, execute, halt, stop (R61, R122 to R124) -/

/-- Settles O7: the word is the two bytes in order where both lie in memory; without them the step is the one that stops on
the fetch, and the record's word is that of the failed fetch. -/
theorem fetchIsBigEndianAndBounded : Obligations.FetchIsBigEndianAndBounded := by
  refine ⟨fun s a h => State.fetchAt_of_le h, fun s a h => ⟨_, State.fetchAt_of_lt h, wordOfBytes_toNat _ _⟩,
    fun s hrun hpc hout => ?_⟩
  have hw : s.fetch = none := State.fetchAt_of_le hout
  rw [step_of_unfetched hrun hpc hw, State.stop_eq, hw]
  rfl

/-- Settles O8, by the two endings of an executing step. -/
theorem stepRunsDecodedInstruction : Obligations.StepRunsDecodedInstruction := by
  intro s t i hs hexec
  rw [step_of_runsNext hs hexec]
  refine ⟨fun ht => ?_, fun r ht => ?_⟩
  · rw [State.complete_running ht]
  · rw [State.complete_faulted ht]
    rfl

/-- Settles O9: the completion check comes first, no other case of a step from below END halts, and load puts END after the
image. -/
theorem completionHalts : Obligations.CompletionHalts := by
  refine ⟨fun s => step_atEnd, fun s t hrun hpc hstep => ?_, fun cfg image t0 s hload => ?_⟩
  · cases stepCases_of_step hstep with
    | stopped hstopped => exact absurd hrun hstopped
    | ends _ hend => omega
    | unfetched | undecoded | raises => exact nofun
    | completes i t _ _ hc =>
      have ht : t.status = .run := hc.status_eq.trans hrun
      rw [State.hostTurn_status, State.endStep_status, State.tick_status, ht]
      exact nofun
  · obtain ⟨-, rfl⟩ := fits_of_load hload
    rfl

/-- Settles O10: the step of a stopped machine reports the outcome of its STATUS. -/
theorem stoppedMachineStaysStopped : Obligations.StoppedMachineStaysStopped := by
  refine fun s => ⟨fun hs => ?_, fun r hs => ?_⟩
  · rw [step_stopped (by rw [hs]; exact nofun), congrArg reported hs]
    rfl
  · rw [step_stopped (by rw [hs]; exact nofun), congrArg reported hs]
    rfl

/-! ## What every step leaves -/

/-- Settles O11: the cases that end in a fatal error raise it on the state before the step. -/
theorem faultEntryIsPrecise : Obligations.FaultEntryIsPrecise := by
  intro s t r hrun hstep ht
  cases stepCases_of_step hstep with
  | stopped hstopped => exact absurd hrun hstopped
  | ends => cases ht
  | unfetched | undecoded | raises =>
    cases ht
    exact ⟨rfl, rfl, rfl⟩
  | completes i t _ _ hc => cases (hc.status_eq.trans hrun).symm.trans ht

/-- Settles O14: the one case that ticks leaves STATUS as it was, which is RUN. -/
theorem timersFreezeWhenStopped : Obligations.TimersFreezeWhenStopped := by
  intro s t hstep ht
  cases stepCases_of_step hstep with
  | stopped | ends | unfetched | undecoded | raises => exact ⟨rfl, rfl, rfl⟩
  | completes i t hs _ hc =>
    obtain ⟨hrun, -⟩ := hs
    exact absurd (hc.status_eq.trans hrun) ht

/-- Settles O16: each case latches the output from the ST it leaves. -/
theorem soundActive : Obligations.SoundActive := by
  intro s t hstep
  cases stepCases_of_step hstep with
  | stopped | ends | unfetched | undecoded | raises | completes => rfl

/-- Settles O17: the end of the step leaves STATUS as the instruction did, and the next step checks END first. -/
theorem continueThenHalted : Obligations.ContinueThenHalted := by
  intro s t u i hs hexec ht hstep
  rw [step_of_runsNext hs hexec, State.complete_running ht] at hstep
  cases hstep
  exact ⟨ht, rfl, fun hend => ⟨_, step_atEnd ht hend, rfl, rfl⟩⟩

/-- Settles O30: neither the ending of a step nor an instruction that completes writes END or the configuration. -/
theorem endAndConfigurationFixed : Obligations.EndAndConfigurationFixed := by
  intro s t hstep
  cases stepCases_of_step hstep with
  | stopped | ends | unfetched | undecoded | raises => exact ⟨rfl, rfl⟩
  | completes i t _ _ hc =>
    rw [hc.frame]
    exact ⟨rfl, rfl⟩

end Sys2Proof

/-! What an instruction answers, said once (40_execution_cycle.md R127): the fatal error it raises, if its condition holds,
and else its effect; and what an effect keeps. -/

namespace Sys2Proof

open Sys2Proof.Machine Sys2Proof.Claims

/-! ## The fatal conditions and the effects -/

/-- The fatal error an instruction raises from a state, if it raises one (R250, Table 1). -/
def Instr.fatal? (s : State) : Instr → Option FatalCode
  | .call _ => if s.sp.val = 16 then some .stackOverflow else none
  | .ret => if s.sp.val = 0 then some .stackUnderflow else none
  | .drw _ _ n =>
    if 0 < n.toNat ∧ s.cfg.memSize ≤ s.i.toNat + n.toNat - 1 then some .memoryOutOfRange else none
  | .ldB _ => if s.cfg.memSize ≤ s.i.toNat + 2 then some .memoryOutOfRange else none
  | .stRegs x | .ldRegs x => if s.cfg.memSize ≤ s.i.toNat + x.toNat then some .memoryOutOfRange else none
  | .skp x | .sknp x => if s.cfg.numKeys.val ≤ (s.readV x).toNat then some .keyIndexOutOfRange else none
  | _ => none

/-- What an instruction does when it raises no fatal error; for those that can raise none, what `exec` answers. -/
def Instr.effect (s : State) : Instr → State
  | .call nnn => { s with
      stack := s.stack.setIfInBounds s.sp.val s.pc, sp := Fin.ofNat 17 (s.sp.val + 1), pc := zextAddr nnn }
  | .ret => { s with sp := ⟨s.sp.val - 1, by omega⟩, pc := s.stack[s.sp.val - 1]'(by omega) + 2 }
  | .drw x y n => ((s.setScreen (s.drawSprite x y n).fb).setFlag (s.drawSprite x y n).collide).advance
  | .ldB x => (((s.memWrite s.i.toNat (hundreds (s.readV x))).memWrite (s.i.toNat + 1) (tens (s.readV x))).memWrite
      (s.i.toNat + 2) (ones (s.readV x))).advance
  | .stRegs x => ((s.storeRegs (x.toNat + 1)).bumpI (x.toNat + 1)).advance
  | .ldRegs x => ((s.loadRegs (x.toNat + 1)).bumpI (x.toNat + 1)).advance
  | .skp x => s.skipIf (s.keyOf x)
  | .sknp x => s.skipIf (!s.keyOf x)
  | i =>
    match exec i s with
    | .next t => t
    | .fault _ | .refused _ => s

/-- A meaning with one fatal condition, as its condition and its effect. -/
theorem fatalIf_eq_elim {bad : Prop} [Decidable bad] {code : FatalCode} {s effect : State} :
    fatalIf bad code s effect = .next ((if bad then some code else none).elim effect s.raise) := by
  by_cases h : bad <;> simp [fatalIf, h]

theorem exec_call_eq (s : State) (nnn : Addr12) :
    exec (.call nnn) s = .next (((Instr.call nnn).fatal? s).elim ((Instr.call nnn).effect s) s.raise) := by
  by_cases hfull : s.sp.val = 16
  · rw [exec_call_of_full s hfull, Instr.fatal?, if_pos hfull]
    rfl
  · have hroom : s.sp.val < 16 := by omega
    rw [exec_call_of_lt s hroom, Instr.fatal?, if_neg hfull, Option.elim, Instr.effect]
    have hstack : s.stack.setIfInBounds s.sp.val s.pc = s.stack.set s.sp.val s.pc hroom := by
      ext k hk
      rw [Vector.getElem_setIfInBounds, Vector.getElem_set]
    have hsp : Fin.ofNat 17 (s.sp.val + 1) = ⟨s.sp.val + 1, by omega⟩ := Fin.ext (Nat.mod_eq_of_lt (by omega))
    rw [hstack, hsp]

theorem exec_ret_eq (s : State) :
    exec .ret s = .next ((Instr.ret.fatal? s).elim (Instr.ret.effect s) s.raise) := by
  change execRet s = _
  obtain ⟨hpos, hpop⟩ | ⟨hempty, hpop⟩ := s.pop?_eq
  · rw [execRet, hpop, Instr.fatal?, if_neg (by omega)]
    rfl
  · rw [execRet, hpop, Instr.fatal?, if_pos hempty]
    rfl

/-- Every instruction, from every state: its fatal error if it raises one, else its effect. -/
theorem exec_eq (s : State) : (i : Instr) → exec i s = .next ((i.fatal? s).elim (i.effect s) s.raise)
  | .call nnn => exec_call_eq s nnn
  | .ret => exec_ret_eq s
  | .drw _ _ _ | .ldB _ | .stRegs _ | .ldRegs _ | .skp _ | .sknp _ => fatalIf_eq_elim
  | .cls | .jp _ | .jpV0 _ | .seImm _ _ | .sneImm _ _ | .seReg _ _ | .sneReg _ _ | .ldImm _ _ | .addImm _ _
  | .ldReg _ _ | .orReg _ _ | .andReg _ _ | .xorReg _ _ | .addReg _ _ | .sub _ _ | .shr _ _ | .subn _ _ | .shl _ _
  | .rnd _ _ | .ldVxDt _ | .ldVxK _ | .ldDtVx _ | .ldStVx _ | .ldI _ | .addI _ | .ldF _ => rfl

section
variable {s t : State} {i : Instr} {code : FatalCode}

theorem exec_of_fatal (h : i.fatal? s = some code) : exec i s = .next (s.raise code) := by
  rw [exec_eq, h]
  rfl

theorem exec_of_not_fatal (h : i.fatal? s = none) : exec i s = .next (i.effect s) := by
  rw [exec_eq, h]
  rfl

theorem exec_cases (h : exec i s = .next t) :
    (∃ code, i.fatal? s = some code ∧ t = s.raise code) ∨ (i.fatal? s = none ∧ t = i.effect s) := by
  cases hfatal : i.fatal? s with
  | some code =>
    rw [exec_of_fatal hfatal] at h
    cases h
    exact .inl ⟨code, rfl, rfl⟩
  | none =>
    rw [exec_of_not_fatal hfatal] at h
    cases h
    exact .inr ⟨rfl, rfl⟩

end

/-! ## What an effect keeps -/

section
variable {s : State} {x : Nibble}

theorem effect_addI_of_setsVf (h : s.cfg.addISetsVf = true) : (Instr.addI x).effect s =
    ((s.setI (s.i + zextByte (s.readV x))).setFlag
      (addIOverflow s.cfg.addIOverflowLimit s.i (s.readV x))).advance :=
  if_pos h

theorem effect_addI_of_not_setsVf (h : ¬s.cfg.addISetsVf = true) :
    (Instr.addI x).effect s = (s.setI (s.i + zextByte (s.readV x))).advance :=
  if_neg h

theorem effect_ldVxK_of_none (h : s.firstKey? = none) : (Instr.ldVxK x).effect s = s :=
  Host.Outcome.next.inj (exec_ldVxK_of_none h)

theorem effect_ldVxK_of_some {k : Nat} (h : s.firstKey? = some k) :
    (Instr.ldVxK x).effect s = (s.writeV x (BitVec.ofNat 8 k)).advance :=
  Host.Outcome.next.inj (exec_ldVxK_of_some h)

theorem effect_stRegs (s : State) (x : Nibble) : (Instr.stRegs x).effect s = { s with
    mem := (s.storeRegs (x.toNat + 1)).mem
    i := if s.cfg.ldstIncrementsI then BitVec.ofNat 16 (s.i.toNat + (x.toNat + 1)) else s.i
    pc := s.pc + 2 } := by
  rw [Instr.effect, State.bumpI_eq, State.storeRegs_eq]
  rfl

theorem effect_ldRegs (s : State) (x : Nibble) : (Instr.ldRegs x).effect s = { s with
    v := (s.loadRegs (x.toNat + 1)).v
    i := if s.cfg.ldstIncrementsI then BitVec.ofNat 16 (s.i.toNat + (x.toNat + 1)) else s.i
    pc := s.pc + 2 } := by
  rw [Instr.effect, State.bumpI_eq, State.loadRegs_eq]
  rfl

end

/-- What `t` keeps from `s`: what every instruction that completes keeps, and I, the stack, the timers and memory unless the
instruction writes them. An update of other fields keeps each by `rfl`, so a case states only the fields it writes. -/
structure Keeps (i : Instr) (s t : State) : Prop where
  completes : Completes i s t := by exact ⟨rfl, fun _ => rfl⟩
  addr : ¬writesI s i → t.i = s.i := by intro _; rfl
  sp : (∀ nnn, i ≠ .call nnn) → i ≠ .ret → t.sp = s.sp := by intro _ _; rfl
  stack : (∀ nnn, i ≠ .call nnn) → t.stack = s.stack := by intro _; rfl
  dt : (∀ x, i ≠ .ldDtVx x) → t.dt = s.dt := by intro _; rfl
  st : (∀ x, i ≠ .ldStVx x) → t.st = s.st := by intro _; rfl
  mem : stores s i = none → t.mem = s.mem := by intro _; rfl

theorem effect_keeps (s : State) (i : Instr) : Keeps i s (i.effect s) := by
  cases i with
  | cls | drw => exact { completes := ⟨rfl, nofun⟩ }
  | call nnn => exact { sp := fun h => absurd rfl (h nnn), stack := fun h => absurd rfl (h nnn) }
  | ret => exact { sp := fun _ h => absurd rfl h }
  | ldI | ldF => exact { addr := fun h => absurd trivial h }
  | addI x =>
    by_cases hvf : s.cfg.addISetsVf = true
    · rw [effect_addI_of_setsVf hvf]
      exact { addr := fun h => absurd trivial h }
    · rw [effect_addI_of_not_setsVf hvf]
      exact { addr := fun h => absurd trivial h }
  | ldDtVx x => exact { dt := fun h => absurd rfl (h x) }
  | ldStVx x => exact { st := fun h => absurd rfl (h x) }
  | ldB x => exact { mem := nofun }
  | stRegs x =>
    rw [effect_stRegs]
    exact { addr := fun h => if_neg h, mem := nofun }
  | ldRegs x =>
    rw [effect_ldRegs]
    exact { addr := fun h => if_neg h }
  | ldVxK x =>
    cases hkey : s.firstKey? with
    | none =>
      rw [effect_ldVxK_of_none hkey]
      exact {}
    | some k =>
      rw [effect_ldVxK_of_some hkey]
      exact {}
  | _ => exact {}

theorem effect_status (s : State) (i : Instr) : (i.effect s).status = s.status :=
  (effect_keeps s i).completes.status_eq

theorem effect_cfg (s : State) (i : Instr) : (i.effect s).cfg = s.cfg := by
  rw [(effect_keeps s i).completes.frame]

end Sys2Proof

/-! What no instruction changes (10_state.md sections 1 to 9, 20_memory.md R60) and where each leaves `pc`: a raised error keeps
everything but STATUS, and the rest is read off the effect. -/

namespace Sys2Proof

open Sys2Proof.Machine Sys2Proof.Claims

/-! ## The address register, the stack, the screen and the control state -/

/-- Settles O26: a raised error keeps I, and so does the effect of an instruction that does not write it. -/
theorem addressRegisterFrame : Obligations.AddressRegisterFrame := by
  intro i s t hexec hi
  obtain ⟨code, -, rfl⟩ | ⟨-, rfl⟩ := exec_cases hexec
  · rfl
  · exact (effect_keeps s i).addr hi

/-- Settles O28: CLS and DRW are the instructions that draw, and one that does not keeps both. -/
theorem screenFrame : Obligations.ScreenFrame := by
  intro i s t hexec hcls hdrw
  obtain ⟨code, -, rfl⟩ | ⟨-, rfl⟩ := exec_cases hexec
  · exact ⟨rfl, rfl⟩
  · have hc := (effect_keeps s i).completes
    have hdraws : i.draws = false := by
      rw [← Bool.not_eq_true, Instr.draws_iff]
      exact fun h => h.elim hcls fun ⟨x, y, n, hi⟩ => hdrw x y n hi
    exact ⟨hc.screen hdraws, by rw [hc.dirty_eq, hdraws, Bool.false_or]⟩

/-- The entry a CALL writes is at SP, above those in use (R28). -/
theorem effect_stack_inUse (s : State) (i : Instr) {k : Nat} (hk : k < 16) (huse : k < s.sp.val) :
    ((i.effect s).stack[k]'hk) = s.stack[k]'hk := by
  by_cases hcall : ∃ nnn, i = .call nnn
  · obtain ⟨nnn, rfl⟩ := hcall
    exact Vector.getElem_setIfInBounds_ne hk (by omega)
  · have hstack := (effect_keeps s i).stack fun nnn h => hcall ⟨nnn, h⟩
    simp only [hstack]

/-- Settles O27: SP and the stack by the effect's frame, and the entries in use lie below the one written. -/
theorem stackFrame : Obligations.StackFrame := by
  intro i s t hexec
  obtain ⟨code, -, rfl⟩ | ⟨-, rfl⟩ := exec_cases hexec
  · exact ⟨fun _ _ => rfl, fun _ => rfl, fun _ _ _ => rfl⟩
  · have hkeeps := effect_keeps s i
    exact ⟨hkeeps.sp, hkeeps.stack, fun _ hk huse => effect_stack_inUse s i hk huse⟩

/-- Settles O29: an error is recorded and nothing else changes; an effect keeps the control state, and a timer unless the
instruction sets it. -/
theorem controlStateFrame : Obligations.ControlStateFrame := by
  intro i s t hexec
  obtain ⟨code, -, rfl⟩ | ⟨-, rfl⟩ := exec_cases hexec
  · exact ⟨rfl, rfl, rfl, rfl, rfl, rfl, rfl, rfl, fun _ => rfl, fun _ => rfl, .inr ⟨code, rfl⟩⟩
  · have hkeeps := effect_keeps s i
    rw [hkeeps.completes.frame]
    exact ⟨rfl, rfl, rfl, rfl, rfl, rfl, rfl, rfl, hkeeps.dt, hkeeps.st, .inl rfl⟩

/-! ## The pressed keys (R213) -/

section
variable {key : Vector Bool 16} {s : State}

/-- The search finds a key where one it looks at is pressed. -/
theorem lowestKey_ne_none {n k j : Nat} (hkj : k ≤ j) (hjn : j < k + n) (hj : key.toList.getD j false = true) :
    lowestKey key n k ≠ none := by
  induction n generalizing k with
  | zero => omega
  | succ n ih =>
    rw [lowestKey]
    split_ifs with hk
    · exact nofun
    · have hne : k ≠ j := fun h => hk (h ▸ hj)
      exact ih (by omega) (by omega)

theorem State.firstKey?_eq_none_iff : s.firstKey? = none ↔ ∀ (k : Nat) (hk : k < 16), s.key[k]'hk = false := by
  refine ⟨fun h k hk => ?_, State.firstKey?_eq_none⟩
  rw [State.firstKey?_eq] at h
  by_contra hpressed
  refine lowestKey_ne_none (Nat.zero_le k) (by omega) ?_ h
  rw [getD_toList_key hk, Bool.of_not_eq_false hpressed]

theorem State.exists_key_of_firstKey? {j : Nat} (h : s.firstKey? = some j) :
    ∃ (k : Nat) (hk : k < 16), (s.key[k]'hk) = true := by
  by_contra hnone
  have hfalse : s.firstKey? = none :=
    State.firstKey?_eq_none fun k hk => Bool.eq_false_iff.mpr fun hpressed => hnone ⟨k, hk, hpressed⟩
  cases h.symm.trans hfalse

theorem true_mem_key_iff : true ∈ key.toList ↔ ∃ (k : Nat) (hk : k < 16), (key[k]'hk) = true := by
  simp [Vector.mem_iff_getElem]

end

/-! ## General registers (R22) -/

section
variable {s : State} {k x : Nibble} {b : Byte} {f : Bool}

theorem State.readV_writeV_of_ne (h : k ≠ x) : (s.writeV x b).readV k = s.readV k := by
  rw [State.readV_writeV, if_neg h]

theorem State.readV_setFlag_of_ne (h : k ≠ 0xF) : (s.setFlag f).readV k = s.readV k :=
  State.readV_writeV_of_ne h

theorem State.readV_writeWithFlag_of_ne (h : ¬(k = x ∨ k = 0xF)) : (s.writeWithFlag x b f).readV k = s.readV k := by
  obtain ⟨hx, hflag⟩ := not_or.mp h
  rw [State.writeWithFlag, State.readV_setFlag_of_ne hflag, State.readV_writeV_of_ne hx]

end

theorem effect_readV {s : State} {i : Instr} {k : Nibble} (h : ¬writesRegister s k i) :
    (i.effect s).readV k = s.readV k := by
  cases i with
  | ldImm | addImm | ldReg | orReg | andReg | xorReg | rnd | ldVxDt => exact State.readV_writeV_of_ne h
  | addReg | sub | shr | subn | shl => exact State.readV_writeWithFlag_of_ne h
  | drw => exact State.readV_setFlag_of_ne h
  | addI x =>
    by_cases hvf : s.cfg.addISetsVf = true
    · rw [effect_addI_of_setsVf hvf]
      exact State.readV_setFlag_of_ne fun hk => h ⟨hk, hvf⟩
    · rw [effect_addI_of_not_setsVf hvf]
      rfl
  | ldVxK x =>
    cases hkey : s.firstKey? with
    | none => rw [effect_ldVxK_of_none hkey]
    | some j =>
      rw [effect_ldVxK_of_some hkey]
      exact State.readV_writeV_of_ne fun hk => h ⟨hk, State.exists_key_of_firstKey? hkey⟩
  | ldRegs x =>
    have hk : ¬k.toNat < x.toNat + 1 := fun hlt => h (Nat.le_of_lt_succ hlt)
    rw [Instr.effect, State.readV_advance, State.readV_bumpI, State.readV_loadRegs s _ x.isLt, if_neg hk]
  | stRegs => rw [effect_stRegs]; rfl
  | _ => rfl

/-- Settles O24: the effect of each instruction writes the registers of its row in the table. -/
theorem registersWrittenAsListed : Obligations.RegistersWrittenAsListed := by
  intro i s t k hexec hk
  obtain ⟨code, -, rfl⟩ | ⟨-, rfl⟩ := exec_cases hexec
  · rfl
  · exact effect_readV hk

/-! ## Memory (R60, R63) -/

/-- A byte outside those an instruction stores to, when its last address is in memory (R63). -/
theorem effect_memRead_of_stores {s : State} {i : Instr} {first len a : Nat} (hwf : s.memWf) (hok : i.fatal? s = none)
    (hstores : stores s i = some (first, len)) (ha : ¬(first ≤ a ∧ a < first + len)) :
    (i.effect s).memRead a = s.memRead a := by
  cases i with
  | ldB x =>
    cases hstores
    have hlt : s.i.toNat + 2 < s.cfg.memSize := by simpa [Instr.fatal?] using hok
    rw [Instr.effect, State.memRead_advance, State.memRead_memWrite_three _ _ _ hwf hlt, if_neg (by omega),
      if_neg (by omega), if_neg (by omega)]
  | stRegs x =>
    cases hstores
    have hlt : s.i.toNat + x.toNat < s.cfg.memSize := by simpa [Instr.fatal?] using hok
    rw [Instr.effect, State.memRead_advance, State.memRead_bumpI, State.memRead_storeRegs _ x.isLt hwf hlt, if_neg ha]
  | _ => cases hstores

/-- Settles O25: an error changes no byte, an instruction that stores nothing keeps memory, and one that stores writes the
bytes it names. -/
theorem memoryFrame : Obligations.MemoryFrame := by
  intro i s t a hwf hrun hexec
  obtain ⟨code, -, rfl⟩ | ⟨hok, rfl⟩ := exec_cases hexec
  · exact ⟨fun _ => rfl, fun _ => rfl, fun _ _ _ _ => rfl⟩
  · refine ⟨fun hstopped => absurd ((effect_status s i).trans hrun) hstopped, fun hnone => ?_,
      fun first len hstores ha => effect_memRead_of_stores hwf hok hstores ha⟩
    exact State.memRead_congr (effect_cfg s i) ((effect_keeps s i).mem hnone) a

/-! ## Program counter (R25) -/

theorem State.keyOf_eq_getD (s : State) (x : Nibble) : s.keyOf x = s.key.toList.getD (s.readV x).toNat false := by
  by_cases h : (s.readV x).toNat < 16
  · rw [State.keyOf_of_lt h, getD_toList_key h]
  · rw [State.keyOf_of_le (by omega), List.getD_eq_default _ _ (by simpa using h)]

theorem State.skipIf_eq (s : State) (c : Bool) :
    s.skipIf c = { s with pc := if c = true then s.pc + 4 else s.pc + 2 } := by
  cases c <;> rfl

theorem State.skipIf_not_eq (s : State) (c : Bool) :
    s.skipIf (!c) = { s with pc := if c = true then s.pc + 2 else s.pc + 4 } := by
  cases c <;> rfl

theorem effect_pc (s : State) (i : Instr) : (i.effect s).pc = nextPc s i := by
  cases i with
  | ret =>
    have hsp : s.sp.val - 1 < 16 := by omega
    simp [Instr.effect, nextPc, List.getD, hsp]
  | seImm x kk => exact congrArg State.pc (State.skipIf_beq s (s.readV x) kk)
  | seReg x y => exact congrArg State.pc (State.skipIf_beq s (s.readV x) (s.readV y))
  | sneImm x kk => exact (congrArg State.pc (State.skipIf_bne s (s.readV x) kk)).trans (ite_not ..).symm
  | sneReg x y => exact (congrArg State.pc (State.skipIf_bne s (s.readV x) (s.readV y))).trans (ite_not ..).symm
  | skp x => rw [Instr.effect, nextPc, State.skipIf_eq, State.keyOf_eq_getD]
  | sknp x => simp only [Instr.effect, nextPc, State.skipIf_eq, State.keyOf_eq_getD, Bool.not_eq_true']
  | addI x =>
    by_cases hvf : s.cfg.addISetsVf = true
    · rw [effect_addI_of_setsVf hvf]
      rfl
    · rw [effect_addI_of_not_setsVf hvf]
      rfl
  | ldVxK x =>
    cases hkey : s.firstKey? with
    | none =>
      have hnone := State.firstKey?_eq_none_iff.mp hkey
      have hkeys : true ∉ s.key.toList := fun hmem => by
        obtain ⟨k, hk, hpressed⟩ := true_mem_key_iff.mp hmem
        exact Bool.false_ne_true ((hnone k hk).symm.trans hpressed)
      rw [effect_ldVxK_of_none hkey, nextPc, if_neg hkeys]
    | some j =>
      rw [effect_ldVxK_of_some hkey, nextPc, if_pos (true_mem_key_iff.mpr (State.exists_key_of_firstKey? hkey))]
      rfl
  | stRegs => rw [effect_stRegs]; rfl
  | ldRegs => rw [effect_ldRegs]; rfl
  | _ => rfl

/-- Settles O31: an error leaves `pc`, and each effect leaves it where the table says. -/
theorem programCounterWrites : Obligations.ProgramCounterWrites := by
  intro i s t hrun hexec
  obtain ⟨code, -, rfl⟩ | ⟨-, rfl⟩ := exec_cases hexec
  · exact ⟨nofun, fun _ => rfl⟩
  · exact ⟨fun _ => effect_pc s i, fun hstopped => absurd ((effect_status s i).trans hrun) hstopped⟩

end Sys2Proof

/-! The host's inputs (40_execution_cycle.md R132, R133, 60_exceptions.md R270): which instructions read them, and that the
others only carry them along. -/

namespace Sys2Proof

open Sys2Proof.Machine Sys2Proof.Claims

/-- The instruction that reads the random byte (R171). -/
def Instr.readsRand : Instr → Bool
  | .rnd _ _ => true
  | _ => false

/-- The instructions that read the key pad (R210, R211, R213). -/
def Instr.readsKeys : Instr → Bool
  | .skp _ | .sknp _ | .ldVxK _ => true
  | _ => false

theorem Instr.readsRand_iff {i : Instr} : i.readsRand = true ↔ ∃ x kk, i = .rnd x kk := by
  cases i <;> simp [readsRand]

theorem Instr.readsKeys_iff {i : Instr} :
    i.readsKeys = true ↔ (∃ x, i = .skp x) ∨ (∃ x, i = .sknp x) ∨ ∃ x, i = .ldVxK x := by
  cases i <;> simp [readsKeys]

section
variable {s t : State} {i : Instr} {key : Vector Bool 16} {now : Nat} {rand : Byte}

theorem State.storeRegs_hostInput (n : Nat) :
    (s.hostInput key now rand).storeRegs n = (s.storeRegs n).hostInput key now rand := by
  induction n with
  | zero => rfl
  | succ n ih => rw [State.storeRegs, ih]; rfl

theorem State.loadRegs_hostInput (n : Nat) :
    (s.hostInput key now rand).loadRegs n = (s.loadRegs n).hostInput key now rand := by
  induction n with
  | zero => rfl
  | succ n ih => rw [State.loadRegs, ih]; rfl

theorem Canvas.drawRows_hostInput (cx cy n : Nat) (k : Canvas) :
    Canvas.drawRows (s.hostInput key now rand) cx cy n k = Canvas.drawRows s cx cy n k := by
  induction n with
  | zero => rfl
  | succ n ih => rw [Canvas.drawRows, ih]; rfl

/-- No fatal condition reads an input. -/
theorem fatal?_hostInput (i : Instr) : i.fatal? (s.hostInput key now rand) = i.fatal? s := by
  cases i <;> rfl

/-- An effect carries inputs it does not read along unchanged. -/
theorem effect_hostInput (hrand : i.readsRand = true → rand = s.rand) (hkey : i.readsKeys = true → key = s.key) :
    i.effect (s.hostInput key now rand) = (i.effect s).hostInput key now rand := by
  cases i with
  | rnd => rw [hrand rfl]; rfl
  | skp | sknp => rw [hkey rfl]; rfl
  | ldVxK x => 
    rw [hkey rfl]
    have hsame : (s.hostInput s.key now rand).firstKey? = s.firstKey? := rfl
    cases hfirst : s.firstKey? with
    | none => rw [effect_ldVxK_of_none hfirst, effect_ldVxK_of_none (hsame.trans hfirst)]
    | some j =>
      rw [effect_ldVxK_of_some hfirst, effect_ldVxK_of_some (hsame.trans hfirst)]
      rfl
  | addI x =>
    by_cases hvf : s.cfg.addISetsVf = true
    · rw [effect_addI_of_setsVf hvf, effect_addI_of_setsVf (s := s.hostInput key now rand) hvf]
      rfl
    · rw [effect_addI_of_not_setsVf hvf, effect_addI_of_not_setsVf (s := s.hostInput key now rand) hvf]
      rfl
  | drw x y n =>
    have hcanvas : (s.hostInput key now rand).drawSprite x y n = s.drawSprite x y n := Canvas.drawRows_hostInput ..
    rw [Instr.effect, hcanvas]
    rfl
  | stRegs => rw [effect_stRegs, effect_stRegs, State.storeRegs_hostInput]; rfl
  | ldRegs => rw [effect_ldRegs, effect_ldRegs, State.loadRegs_hostInput]; rfl
  | _ => rfl

theorem exec_hostInput (h : exec i s = .next t) (hrand : i.readsRand = true → rand = s.rand)
    (hkey : i.readsKeys = true → key = s.key) :
    exec i (s.hostInput key now rand) = .next (t.hostInput key now rand) := by
  obtain ⟨code, hfatal, rfl⟩ | ⟨hok, rfl⟩ := exec_cases h
  · exact exec_of_fatal ((fatal?_hostInput i).trans hfatal)
  · rw [exec_of_not_fatal ((fatal?_hostInput i).trans hok), effect_hostInput hrand hkey]

end

/-- Settles O32: each input in turn is replaced, the other two left as they are. -/
theorem hostInputsReachOnlyTheirInstructions : Obligations.HostInputsReachOnlyTheirInstructions := by
  intro i s t hexec
  obtain ⟨-, hkey, -, -, hnow, hrand, -⟩ := controlStateFrame i s t hexec
  refine ⟨fun b hrnd => ?_, fun m => ?_, fun keys hskp hsknp hldVxK => ?_⟩
  · change _ = Host.Outcome.next (t.hostInput t.key t.now b)
    rw [hkey, hnow]
    refine exec_hostInput hexec (fun hreads => ?_) fun _ => rfl
    obtain ⟨x, kk, hi⟩ := Instr.readsRand_iff.mp hreads
    exact absurd hi (hrnd x kk)
  · change _ = Host.Outcome.next (t.hostInput t.key m t.rand)
    rw [hkey, hrand]
    exact exec_hostInput hexec (fun _ => rfl) fun _ => rfl
  · change _ = Host.Outcome.next (t.hostInput keys t.now t.rand)
    rw [hnow, hrand]
    refine exec_hostInput hexec (fun _ => rfl) fun hreads => ?_
    obtain ⟨x, hi⟩ | ⟨x, hi⟩ | ⟨x, hi⟩ := Instr.readsKeys_iff.mp hreads
    · exact absurd hi (hskp x)
    · exact absurd hi (hsknp x)
    · exact absurd hi (hldVxK x)

end Sys2Proof

/-! Fatal errors (60_exceptions.md R250, R253), and the instructions of control transfer and the key pad that raise one
(41_control_flow.md R140, R142, 44_keys_timers.md R210, R211). -/

namespace Sys2Proof

open Sys2Proof.Machine Sys2Proof.Claims

/-! ## Which error, and in which order -/

/-- From a running state an instruction's answer tells the error it raised. -/
theorem fatal?_of_exec_raise {s : State} {i : Instr} {code : FatalCode} (hrun : s.status = .run)
    (h : exec i s = .next (s.raise code)) : i.fatal? s = some code := by
  obtain ⟨code', hfatal, heq⟩ | ⟨-, heq⟩ := exec_cases h
  · have hstatus := congrArg State.status heq
    cases hstatus
    exact hfatal
  · have hstatus := (congrArg State.status heq).trans ((effect_status s i).trans hrun)
    cases hstatus

theorem bad_of_ite_eq_some {bad : Prop} [Decidable bad] {c code : FatalCode}
    (h : (if bad then some c else none) = some code) : bad ∧ code = c := by
  rw [Option.ite_none_right_eq_some] at h
  exact ⟨h.1, (Option.some.inj h.2).symm⟩

/-- Settles O12: the first two stops of a step come before the instruction; after them the error is the instruction's own,
and its condition held. -/
theorem fatalErrorsInOrder : Obligations.FatalErrorsInOrder := by
  intro s t r hrun hstep ht
  cases stepCases_of_step hstep with
  | stopped hstopped => exact absurd hrun hstopped
  | ends => cases ht
  | unfetched _ hpc hw =>
    cases ht
    exact ⟨hpc, .inl ⟨hw, rfl⟩⟩
  | undecoded w _ hpc hw hi =>
    cases ht
    exact ⟨hpc, .inr (.inl ⟨w, hw, hi, rfl⟩)⟩
  | completes i t _ _ hc => cases (hc.status_eq.trans hrun).symm.trans ht
  | raises i code hs hexec =>
    cases ht
    have ⟨_, hpc, _⟩ := hs
    refine ⟨hpc, .inr (.inr ⟨i, hs, ?_⟩)⟩
    have hfatal := fatal?_of_exec_raise hrun hexec
    cases i with
    | call nnn =>
      obtain ⟨hfull, rfl⟩ := bad_of_ite_eq_some hfatal
      exact .inl ⟨nnn, rfl, hfull, rfl⟩
    | ret =>
      obtain ⟨hempty, rfl⟩ := bad_of_ite_eq_some hfatal
      exact .inr (.inl ⟨rfl, hempty, rfl⟩)
    | drw x y n =>
      obtain ⟨⟨hn, hout⟩, rfl⟩ := bad_of_ite_eq_some hfatal
      exact .inr (.inr (.inl ⟨rfl, .inl ⟨x, y, n, rfl, hn, hout⟩⟩))
    | ldB x =>
      obtain ⟨hout, rfl⟩ := bad_of_ite_eq_some hfatal
      exact .inr (.inr (.inl ⟨rfl, .inr (.inl ⟨x, rfl, hout⟩)⟩))
    | stRegs x =>
      obtain ⟨hout, rfl⟩ := bad_of_ite_eq_some hfatal
      exact .inr (.inr (.inl ⟨rfl, .inr (.inr ⟨x, .inl rfl, hout⟩)⟩))
    | ldRegs x =>
      obtain ⟨hout, rfl⟩ := bad_of_ite_eq_some hfatal
      exact .inr (.inr (.inl ⟨rfl, .inr (.inr ⟨x, .inr rfl, hout⟩)⟩))
    | skp x =>
      obtain ⟨hindex, rfl⟩ := bad_of_ite_eq_some hfatal
      exact .inr (.inr (.inr ⟨rfl, x, .inl rfl, by rwa [Cfg.numKeys_val] at hindex⟩))
    | sknp x =>
      obtain ⟨hindex, rfl⟩ := bad_of_ite_eq_some hfatal
      exact .inr (.inr (.inr ⟨rfl, x, .inr rfl, by rwa [Cfg.numKeys_val] at hindex⟩))
    | _ => cases hfatal

/-- No instruction raises the error of load (R250). -/
theorem fatal?_ne_loadError (s : State) (i : Instr) : i.fatal? s ≠ some .loadError := by
  intro hfatal
  cases i with
  | call | ret | drw | ldB | stRegs | ldRegs | skp | sknp => cases (bad_of_ite_eq_some hfatal).2
  | _ => cases hfatal

/-! ## JP V0, CALL and RET, SKP and SKNP -/

/-- Settles O37: the sum of a 12-bit and an 8-bit value does not wrap at 16 bits. -/
theorem jumpIndexedAddsV0 : Obligations.JumpIndexedAddsV0 := by
  refine ⟨encodedAs_pattern (.jpV0 0), fun s nnn =>
    ⟨zextAddr nnn + zextByte (s.readV 0x0), ?_, rfl, haltsIfPastEnd_of_any s _, fun hend hp => hend.trans hp⟩⟩
  rw [Word.add_zextByte_toNat, zextAddr_toNat]
  omega

theorem exec_ret_of_pos {s : State} (h : 0 < s.sp.val) : exec .ret s =
    .next { s with sp := ⟨s.sp.val - 1, by omega⟩, pc := s.stack[s.sp.val - 1]'(by omega) + 2 } :=
  exec_of_not_fatal (if_neg (by omega))

/-- Settles O39, by whether the stack holds an entry; under the invariant the entry lies in memory, of 0x1000 bytes at
most. -/
theorem returnResumesAfterCall : Obligations.ReturnResumesAfterCall := by
  refine ⟨encodedAs_pattern .ret, fun s => ⟨fun h => ?_, fun h => exec_of_fatal (if_pos h)⟩⟩
  refine ⟨_, rfl, exec_ret_of_pos h, haltsIfPastEnd_of_any s _, fun hinv => ?_⟩
  have hsize := Cfg.memSize_le hinv.cfgOk
  have hentry := hinv.stackOk (s.sp.val - 1) (by omega) (by omega)
  rw [BitVec.toNat_add, show (2 : Word).toNat = 2 from rfl]
  omega

/-- Settles O40: the top of the stack CALL left is its own address, and SP is one above what it was. -/
theorem callThenReturn : Obligations.CallThenReturn := by
  intro s t u v nnn hroom hcall hstack hsp hret
  rw [exec_call_of_lt s hroom] at hcall
  cases hcall
  have hval : u.sp.val = s.sp.val + 1 := congrArg Fin.val hsp
  rw [exec_ret_of_pos (by omega)] at hret
  cases hret
  refine ⟨?_, Fin.ext (by simp [hval])⟩
  simp [hstack, hval]

/-- Settles O52: with a key of that index the skip is on the key's state, without one both raise the error. -/
theorem skipsOnKey : Obligations.SkipsOnKey := by
  refine ⟨encodedAs_pattern (.skp 0), encodedAs_pattern (.sknp 0), fun s x => ⟨fun h => ?_, fun h => ?_⟩⟩
  · have hok : ¬s.cfg.numKeys.val ≤ (s.readV x).toNat := by
      rw [Cfg.numKeys_val]
      omega
    have hskp : exec (.skp x) s = .next (s.skipIf (s.keyOf x)) := fatalIf_neg hok
    have hsknp : exec (.sknp x) s = .next (s.skipIf (!s.keyOf x)) := fatalIf_neg hok
    rw [hskp, hsknp, State.skipIf_eq, State.skipIf_not_eq, State.keyOf_of_lt h]
    exact ⟨rfl, rfl⟩
  · have hbad : s.cfg.numKeys.val ≤ (s.readV x).toNat := by rwa [Cfg.numKeys_val]
    exact ⟨exec_of_fatal (if_pos hbad), exec_of_fatal (if_pos hbad)⟩

end Sys2Proof

/-! The invariant `State.Inv` along a run (10_state.md sections 4, 7 and 9, 41_control_flow.md): each case of a step keeps it.
The work is in an instruction's effect: where it leaves `pc`, what CALL pushes, and the canonical form of memory. -/

namespace Sys2Proof

open Sys2Proof.Machine Sys2Proof.Claims

/-! ## Steps that execute nothing, and fatal errors -/

section
variable {s : State} {code : FatalCode}

theorem inv_report_of_stopped (h : s.Inv) : (s.report (reported s.status)).Inv :=
  { h with outOk := rfl, soundOk := rfl }

theorem inv_halt (h : s.Inv) (hend : s.endAddr.toNat ≤ s.pc.toNat) : s.halt.Inv :=
  { h with haltOk := fun _ => hend, faultOk := nofun, outOk := rfl, soundOk := rfl }

theorem inv_stop (h : s.Inv) (hcode : code ≠ .loadError) : (s.stop code).Inv :=
  { h with
    haltOk := nofun
    faultOk := fun r hr => by
      cases hr
      exact ⟨rfl, rfl, hcode⟩
    outOk := rfl
    soundOk := rfl }

end

/-! ## What an effect does to the parts of the invariant -/

section
variable {s : State}

theorem effect_memWf (i : Instr) (h : s.memWf) : (i.effect s).memWf := by
  cases i with
  | ldB x => exact State.memWf_memWrite _ _ (State.memWf_memWrite _ _ (State.memWf_memWrite _ _ h))
  | stRegs x =>
    have hstored : (s.storeRegs (x.toNat + 1)).memWf := State.memWf_storeRegs _ h
    rw [State.storeRegs_eq] at hstored
    rw [effect_stRegs]
    exact hstored
  | _ =>
    rw [State.memWf, effect_cfg, (effect_keeps s _).mem rfl]
    exact h

/-- The one entry that comes into use is the `pc` of a CALL (R28, R142). -/
theorem effect_stack_lt (i : Instr) (hinv : s.Inv) (hpc : s.pc.toNat < s.cfg.memSize) {k : Nat} (hk : k < 16)
    (huse : k < (i.effect s).sp.val) : ((i.effect s).stack[k]'hk).toNat < s.cfg.memSize := by
  by_cases hold : k < s.sp.val
  · rw [effect_stack_inUse s i hk hold]
    exact hinv.stackOk k hk hold
  by_cases hcall : ∃ nnn, i = .call nnn
  · obtain ⟨nnn, rfl⟩ := hcall
    have hle : (s.sp.val + 1) % 17 ≤ s.sp.val + 1 := Nat.mod_le _ _
    obtain rfl : k = s.sp.val := by
      change k < (s.sp.val + 1) % 17 at huse
      omega
    simp only [Instr.effect, Vector.getElem_setIfInBounds_self, hpc]
  by_cases hret : i = .ret
  · subst hret
    change k < s.sp.val - 1 at huse
    omega
  · rw [(effect_keeps s i).sp (fun nnn h => hcall ⟨nnn, h⟩) hret] at huse
    exact absurd huse hold

/-- From a `pc` in memory no instruction reaches beyond 0x10FE: the farthest is a jump indexed by V0 (R128, R147). -/
theorem effect_pc_toNat_le (i : Instr) (hinv : s.Inv) (hpc : s.pc.toNat < 0x1000) (hok : i.fatal? s = none) :
    (i.effect s).pc.toNat ≤ 0x10FE := by
  have hadvance : (s.pc + 2).toNat ≤ 0x10FE := by bv_omega
  have hskip : (s.pc + 4).toNat ≤ 0x10FE := by bv_omega
  rw [effect_pc]
  cases i with
  | jp nnn | call nnn => exact (zextAddr_toNat nnn).trans_le (by omega)
  | jpV0 nnn =>
    have hsum := Word.add_zextByte_toNat (zextAddr nnn) (s.readV 0)
    rw [zextAddr_toNat] at hsum
    exact hsum.trans_le (by omega)
  | ret =>
    have hpos : s.sp.val ≠ 0 := by simpa [Instr.fatal?] using hok
    have hentry := hinv.stackOk (s.sp.val - 1) (by omega) (by omega)
    have hsize := Cfg.memSize_le hinv.cfgOk
    rw [← effect_pc]
    change (s.stack[s.sp.val - 1] + 2).toNat ≤ 0x10FE
    bv_omega
  | seImm | sneImm | seReg | sneReg | skp | sknp =>
    simp only [nextPc]
    split_ifs <;> assumption
  | ldVxK =>
    simp only [nextPc]
    split_ifs
    · exact hadvance
    · exact hinv.pcOk
  | _ => exact hadvance

end

/-! ## Steps -/

/-- The word at `pc` lies in memory when it is fetched (R61). -/
theorem pc_lt_of_runsNext {s : State} {i : Instr} (hs : runsNext s i) : s.pc.toNat + 1 < s.cfg.memSize := by
  obtain ⟨-, -, w, hw, -⟩ := hs
  by_contra hout
  rw [State.fetch, State.fetchAt_of_le (by omega)] at hw
  cases hw

theorem effect_of_completes {s t : State} {i : Instr} (h : exec i s = .next t) (hc : Completes i s t)
    (hrun : s.status = .run) : i.fatal? s = none ∧ t = i.effect s := by
  obtain ⟨code, -, rfl⟩ | heffect := exec_cases h
  · cases hc.status_eq.trans hrun
  · exact heffect

/-- The end of a step (R123) from a running state: the tick moves LAST_TICK to now at most, and host time does not fall. -/
theorem inv_endOfStep {t : State} (hrun : t.status = .run) (hcfg : t.cfg.wellFormed = true) (hmem : t.memWf)
    (htime : t.lastTick ≤ t.now) (hend : t.endAddr.toNat ≤ t.cfg.memSize)
    (hstack : ∀ (k : Nat) (h : k < 16), k < t.sp.val → (t.stack[k]'h).toNat < t.cfg.memSize)
    (hpc : t.pc.toNat ≤ 0x10FE) : t.tick.endStep.hostTurn.Inv where
  cfgOk := hcfg
  memOk := hmem
  clean := rfl
  timeOk := by
    rw [State.hostTurn_lastTick, State.endStep_lastTick, State.tick_lastTick]
    change _ ≤ t.now + _
    split_ifs <;> omega
  endOk := hend
  stackOk := hstack
  pcOk := hpc
  haltOk := fun h => by cases hrun.symm.trans h
  faultOk := fun r h => by cases hrun.symm.trans h
  outOk := congrArg reported hrun.symm
  soundOk := rfl

theorem inv_afterEffect {s : State} {i : Instr} (hinv : s.Inv) (hs : runsNext s i) (hok : i.fatal? s = none) :
    (i.effect s).tick.endStep.hostTurn.Inv := by
  have ⟨hrun, _⟩ := hs
  have hsize := Cfg.memSize_le hinv.cfgOk
  have hpc := pc_lt_of_runsNext hs
  have hcfg := effect_cfg s i
  have hframe := (effect_keeps s i).completes.frame
  have htime : (i.effect s).lastTick ≤ (i.effect s).now := by
    rw [hframe]
    exact hinv.timeOk
  have hend : (i.effect s).endAddr.toNat ≤ (i.effect s).cfg.memSize := by
    rw [hframe]
    exact hinv.endOk
  refine inv_endOfStep ((effect_status s i).trans hrun) (hcfg ▸ hinv.cfgOk) (effect_memWf i hinv.memOk) htime hend
    (fun k hk huse => ?_) (effect_pc_toNat_le i hinv (by omega) hok)
  rw [hcfg]
  exact effect_stack_lt i hinv (by omega) hk huse

/-- Settles O23: a step that executes nothing changes STATUS and the outputs alone, and so does one that ends in a fatal
error; an instruction's effect and the end of its step keep the rest. -/
theorem stepKeepsInvariant : Obligations.StepKeepsInvariant := by
  intro s t hinv hstep
  cases stepCases_of_step hstep with
  | stopped => exact inv_report_of_stopped hinv
  | ends _ hend => exact inv_halt hinv hend
  | unfetched | undecoded => exact inv_stop hinv nofun
  | raises i code hs hexec =>
    have ⟨hrun, _⟩ := hs
    have hfatal := fatal?_of_exec_raise hrun hexec
    exact inv_stop hinv fun hcode => fatal?_ne_loadError s i (hcode ▸ hfatal)
  | completes i t hs hexec hc =>
    have ⟨hrun, _⟩ := hs
    obtain ⟨hok, rfl⟩ := effect_of_completes hexec hc hrun
    exact inv_afterEffect hinv hs hok

end Sys2Proof

/-! DRW (43_display.md R191). One notion carries the proof: a canvas drawn from another by XOR of a set of bits, with the
collision that set makes. Drawing two disjoint sets one after the other draws their union, and the columns of a sprite byte
and the rows of a sprite fall on disjoint pixels. -/

namespace Sys2Proof

open Sys2Proof.Machine Sys2Proof.Claims

/-! ## Drawing a set of bits -/

/-- `k'` is `k` with the bits XORed on, and it collides if `k` did or if an on pixel met a set bit (R191). -/
structure Canvas.Draws (k k' : Canvas) (bits : Nat → Nat → Bool) : Prop where
  pixel : ∀ r c, r < 32 → c < 64 → FrameBuffer.pixel k'.fb r c = (FrameBuffer.pixel k.fb r c ^^ bits r c)
  collide : k'.collide = true ↔
    k.collide = true ∨ ∃ r c, r < 32 ∧ c < 64 ∧ FrameBuffer.pixel k.fb r c = true ∧ bits r c = true

section
variable {k k' k'' : Canvas} {bits bits' : Nat → Nat → Bool}

theorem Canvas.Draws.congr (h : Canvas.Draws k k' bits) (heq : ∀ r c, r < 32 → c < 64 → bits r c = bits' r c) :
    Canvas.Draws k k' bits' where
  pixel r c hr hc := by rw [h.pixel r c hr hc, heq r c hr hc]
  collide := by
    rw [h.collide]
    refine or_congr_right (exists₂_congr fun r c => and_congr_right fun hr => and_congr_right fun hc => ?_)
    rw [heq r c hr hc]

theorem Canvas.Draws.refl (k : Canvas) : Canvas.Draws k k fun _ _ => false where
  pixel r c _ _ := (Bool.xor_false _).symm
  collide := by simp

/-- Disjoint sets of bits drawn one after the other draw their union: the second meets the pixels as the first found
them. -/
theorem Canvas.Draws.trans (h : Canvas.Draws k k' bits) (h' : Canvas.Draws k' k'' bits')
    (hdisjoint : ∀ r c, r < 32 → c < 64 → bits r c = true → bits' r c = false) :
    Canvas.Draws k k'' fun r c => bits r c || bits' r c where
  pixel r c hr hc := by
    rw [h'.pixel r c hr hc, h.pixel r c hr hc]
    cases hb : bits r c with
    | false => simp
    | true => simp [hdisjoint r c hr hc hb]
  collide := by
    rw [h'.collide, h.collide, or_assoc]
    refine or_congr_right ⟨?_, ?_⟩
    · rintro (⟨r, c, hr, hc, hon, hb⟩ | ⟨r, c, hr, hc, hon, hb'⟩)
      · exact ⟨r, c, hr, hc, hon, by simp [hb]⟩
      · have hb : bits r c = false := by
          by_contra hb
          simp [hdisjoint r c hr hc (by simpa using hb)] at hb'
        rw [h.pixel r c hr hc, hb, Bool.xor_false] at hon
        exact ⟨r, c, hr, hc, hon, by simp [hb']⟩
    · rintro ⟨r, c, hr, hc, hon, hb⟩
      by_cases hfirst : bits r c = true
      · exact .inl ⟨r, c, hr, hc, hon, hfirst⟩
      · have hpixel := h.pixel r c hr hc
        simp only [hfirst, hon, Bool.false_or, Bool.xor_false] at hb hpixel
        exact .inr ⟨r, c, hr, hc, hpixel, hb⟩

theorem FrameBuffer.pixel_mod (fb : FrameBuffer) (row col : Nat) :
    FrameBuffer.pixel fb (row % 32) (col % 64) = FrameBuffer.pixel fb row col := by
  simp [FrameBuffer.pixel]

theorem Canvas.draws_xorPixel (k : Canvas) (row col : Nat) :
    Canvas.Draws k (k.xorPixel row col) fun r c => decide (row % 32 = r ∧ col % 64 = c) where
  pixel r c hr hc := by rw [Canvas.pixel_xorPixel, Nat.mod_eq_of_lt hr, Nat.mod_eq_of_lt hc]
  collide := by
    rw [Canvas.xorPixel, Bool.or_eq_true]
    refine or_congr_right ⟨fun hon => ?_, ?_⟩
    · exact ⟨row % 32, col % 64, by omega, by omega, by rwa [FrameBuffer.pixel_mod], by simp⟩
    · rintro ⟨r, c, -, -, hon, hb⟩
      obtain ⟨rfl, rfl⟩ := of_decide_eq_true hb
      rwa [FrameBuffer.pixel_mod] at hon

end

/-! ## The bits of a sprite byte -/

/-- How far `p` lies beyond `origin`, with wrap-around at `size` (R191). -/
def wrapDistance (size origin p : Nat) : Nat :=
  (p + size - origin % size) % size

/-- The first `m` columns of a sprite byte, column 0 being bit 7, drawn in one row from a column on. -/
def byteBits (b : Byte) (col row m r c : Nat) : Bool :=
  decide (row % 32 = r) && decide (wrapDistance 64 col c < m) && b.getLsbD (7 - wrapDistance 64 col c)

section
variable {b : Byte} {col row m n r c : Nat}

theorem add_mod_64_eq_iff (hc : c < 64) (hm : m < 64) : (col + m) % 64 = c ↔ wrapDistance 64 col c = m := by
  unfold wrapDistance
  omega

theorem add_mod_32_eq_iff (hr : r < 32) (hn : n < 32) : (row + n) % 32 = r ↔ wrapDistance 32 row r = n := by
  unfold wrapDistance
  omega

theorem byteBits_succ : byteBits b col row (m + 1) r c =
    (byteBits b col row m r c || (decide (row % 32 = r ∧ wrapDistance 64 col c = m) && b.getLsbD (7 - m))) := by
  unfold byteBits
  by_cases hcol : wrapDistance 64 col c = m
  · simp [hcol]
  · have hlt : wrapDistance 64 col c < m + 1 ↔ wrapDistance 64 col c < m := by omega
    simp [hcol, hlt]

/-- The columns before the last fall on other pixels than the last. -/
theorem Canvas.draws_drawColumns (cfg : Cfg) (k : Canvas) (hm : m ≤ 8) :
    Canvas.Draws k (Canvas.drawColumns cfg b col row m k) (byteBits b col row m) := by
  induction m with
  | zero => exact (Canvas.Draws.refl k).congr fun r c _ _ => by simp [byteBits]
  | succ m ih =>
    have hbefore := ih (by omega)
    rw [Canvas.drawColumns_succ]
    split_ifs with hbit
    · refine (hbefore.trans (Canvas.draws_xorPixel _ row (col + m)) fun r c _ hc hb => ?_).congr fun r c _ hc => ?_
      · have hlt : wrapDistance 64 col c < m := by
          simp only [byteBits, Bool.and_eq_true, decide_eq_true_eq] at hb
          obtain ⟨⟨-, hlt⟩, -⟩ := hb
          exact hlt
        exact decide_eq_false fun ⟨_, hcol⟩ => absurd ((add_mod_64_eq_iff hc (by omega)).mp hcol) hlt.ne
      · simp only [byteBits_succ, hbit, Bool.and_true, add_mod_64_eq_iff hc (show m < 64 by omega)]
    · exact hbefore.congr fun r c _ _ => by simp only [byteBits_succ, hbit, Bool.and_false, Bool.or_false]

end

/-! ## The bits of a sprite -/

/-- The first `n` rows of the sprite at I, drawn from a column and a row on. -/
def spriteBits (s : State) (col row n r c : Nat) : Bool :=
  decide (wrapDistance 32 row r < n) && decide (wrapDistance 64 col c < 8) &&
    (s.memRead (s.i.toNat + wrapDistance 32 row r)).getLsbD (7 - wrapDistance 64 col c)

theorem spriteBit_eq_spriteBits (s : State) (x y n : Nibble) (r c : Nat) :
    spriteBit s x y n r c = spriteBits s (s.readV x).toNat (s.readV y).toNat n.toNat r c := rfl

section
variable {s : State} {col row n r c : Nat}

theorem spriteBits_succ (hr : r < 32) (hn : n < 32) : spriteBits s col row (n + 1) r c =
    (spriteBits s col row n r c || byteBits (s.memRead (s.i.toNat + n)) col (row + n) 8 r c) := by
  simp only [spriteBits, byteBits, add_mod_32_eq_iff hr hn]
  by_cases hrow : wrapDistance 32 row r = n
  · simp [hrow]
  · have hlt : wrapDistance 32 row r < n + 1 ↔ wrapDistance 32 row r < n := by omega
    simp [hrow, hlt]

/-- The rows before the last fall on other pixels than the last. -/
theorem Canvas.draws_drawRows (k : Canvas) (hn : n ≤ 32) :
    Canvas.Draws k (Canvas.drawRows s col row n k) (spriteBits s col row n) := by
  induction n with
  | zero => exact (Canvas.Draws.refl k).congr fun r c _ _ => by simp [spriteBits]
  | succ n ih =>
    refine ((ih (by omega)).trans (Canvas.draws_drawColumns s.cfg _ le_rfl) fun r c hr _ hb => ?_).congr
      fun r c hr _ => (spriteBits_succ hr hn).symm
    have hlt : wrapDistance 32 row r < n := by
      simp only [spriteBits, Bool.and_eq_true, decide_eq_true_eq] at hb
      obtain ⟨⟨hlt, -⟩, -⟩ := hb
      exact hlt
    have hrow : ¬(row + n) % 32 = r := fun h => absurd ((add_mod_32_eq_iff hr hn).mp h) hlt.ne
    simp [byteBits, hrow]

end

/-! ## The instruction -/

theorem draws_drawSprite (s : State) (x y n : Nibble) :
    Canvas.Draws ⟨s.fb, false⟩ (s.drawSprite x y n) (spriteBit s x y n) :=
  Canvas.draws_drawRows _ (by omega)

theorem exec_drw_of_lt {s : State} {x y n : Nibble} (h : n = 0 ∨ s.i.toNat + n.toNat - 1 < s.cfg.memSize) :
    exec (.drw x y n) s =
      .next ((s.setScreen (s.drawSprite x y n).fb).setFlag (s.drawSprite x y n).collide).advance := by
  refine fatalIf_neg fun ⟨hpos, hout⟩ => ?_
  obtain rfl | hlt := h
  · exact absurd hpos (lt_irrefl 0)
  · omega

/-- Settles O51: the sprite is one set of bits drawn on the screen with no collision yet; the check is on its last
address. -/
theorem drawSprite : Obligations.DrawSprite := by
  refine ⟨encodedAs_pattern (.drw 0 0 0), fun s x y n => ⟨fun hok => ?_, fun hn hout => ?_⟩⟩
  · have hdraws := draws_drawSprite s x y n
    refine ⟨_, exec_drw_of_lt hok, rfl, hdraws.pixel, fun k hk => State.readV_setFlag_of_ne hk, ?_⟩
    have hflag : (((s.setScreen (s.drawSprite x y n).fb).setFlag (s.drawSprite x y n).collide).advance).readV 0xF =
        bit (s.drawSprite x y n).collide := by
      rw [State.readV_advance]
      exact (State.readV_setFlag ..).trans (if_pos rfl)
    rw [hflag]
    cases hcollide : (s.drawSprite x y n).collide with
    | true => exact .inl ⟨rfl, by simpa using hdraws.collide.mp hcollide⟩
    | false =>
      refine .inr ⟨rfl, fun r c hr hc hon => Bool.eq_false_iff.mpr fun hb => ?_⟩
      have hmeets := hdraws.collide.mpr (.inr ⟨r, c, hr, hc, hon, hb⟩)
      exact Bool.false_ne_true (hcollide.symm.trans hmeets)
  · have hpos : 0 < n.toNat := Nat.pos_of_ne_zero fun h => hn (BitVec.eq_of_toNat_eq h)
    exact exec_of_fatal (if_pos ⟨hpos, hout⟩)

end Sys2Proof
